-- ==== Sys2Proof/Word.lean ====
section
/-! DEFINITION. The data types of the engine: byte, word (a 4-tuple of bytes, never an integer, `00_scope.md` R8) and
block (sixteen bytes in the column-major matrix view of R11), with byte-for-byte exclusive-or. -/

namespace Sys2Proof

/-- A byte, 0..255 (`00_scope.md` R8). -/
abbrev Byte := BitVec 8

/-- A word: a sequence of exactly four bytes `(b0, b1, b2, b3)`; as a matrix column, `b0` is the byte of row 0 (R8, R66). -/
structure Word where
  b0 : Byte
  b1 : Byte
  b2 : Byte
  b3 : Byte
  deriving DecidableEq, Repr, Inhabited

/-- A block: sixteen bytes as four columns; byte `i` of the block is row `i mod 4` of column `i div 4` (R8, R11, R65). -/
structure Block where
  c0 : Word
  c1 : Word
  c2 : Word
  c3 : Word
  deriving DecidableEq, Repr, Inhabited

/-- `0^4`. -/
def Word.zero : Word := ⟨0, 0, 0, 0⟩

/-- `0^16` (`00_scope.md` R9). -/
def Block.zero : Block := ⟨Word.zero, Word.zero, Word.zero, Word.zero⟩

/-- `a ^ b` of two words, component by component (R9). -/
def Word.xor (a b : Word) : Word := ⟨a.b0 ^^^ b.b0, a.b1 ^^^ b.b1, a.b2 ^^^ b.b2, a.b3 ^^^ b.b3⟩

/-- `a ^ b` of two blocks, byte for byte (R9). -/
def Block.xor (a b : Block) : Block := ⟨a.c0.xor b.c0, a.c1.xor b.c1, a.c2.xor b.c2, a.c3.xor b.c3⟩

end Sys2Proof
end

