-- ==== Sys2Proof/Syntax.lean ====
section
/-! DEFINITION. The 21 commands of the engine (`30_encoding.md` R100), one constructor per row of `spec/opcode_table.json`.
The command set is the machine's instruction set (`00_scope.md` R2). -/

namespace Sys2Proof

/-- The commands of R100. The only operand any command carries is the round-key index `k` of ADDROUNDKEY (R93). -/
inductive Instr where
  /-- KEYLOAD (R155). -/
  | keyload
  /-- ENC.ECB (R225). -/
  | encEcb
  /-- ENC.CBC (R226). -/
  | encCbc
  /-- DEC.ECB (R227). -/
  | decEcb
  /-- DEC.CBC (R228). -/
  | decCbc
  /-- BLKENC (R194). -/
  | blkenc
  /-- BLKDEC (R195). -/
  | blkdec
  /-- SUBBYTES (R177). -/
  | subbytes
  /-- INVSUBBYTES (R178). -/
  | invsubbytes
  /-- SHIFTROWS (R179). -/
  | shiftrows
  /-- INVSHIFTROWS (R180). -/
  | invshiftrows
  /-- MIXCOLUMNS (R181). -/
  | mixcolumns
  /-- INVMIXCOLUMNS (R182). -/
  | invmixcolumns
  /-- MIXCOL (R133). -/
  | mixcol
  /-- INVMIXCOL (R134). -/
  | invmixcol
  /-- GFMUL (R123). -/
  | gfmul
  /-- ROTWORD (R157). -/
  | rotword
  /-- SUBWORD (R158). -/
  | subword
  /-- PAD (R208). -/
  | pad
  /-- UNPAD (R209). -/
  | unpad
  /-- ADDROUNDKEY k (R183); `k` is the four-bit immediate of R93. -/
  | addroundkey (k : BitVec 4)
  deriving DecidableEq, Repr

end Sys2Proof
end

