-- ==== Sys2Proof/WellFormed.lean ====
section
/-! DEFINITION. Which terms of `Instr` are commands of the engine: the round-key index of ADDROUNDKEY is 0..10
(`30_encoding.md` R93); every other command carries no operand. -/

namespace Sys2Proof

/-- The check on the one operand of the command set: "legal 0..10, 11..15 reserved" (R93). -/
def legalRoundKeyIndex (k : BitVec 4) : Bool := decide (k.toNat ≤ 10)

/-- A command of R100. -/
def Instr.wellFormed : Instr → Bool
  | .keyload => true
  | .encEcb => true
  | .encCbc => true
  | .decEcb => true
  | .decCbc => true
  | .blkenc => true
  | .blkdec => true
  | .subbytes => true
  | .invsubbytes => true
  | .shiftrows => true
  | .invshiftrows => true
  | .mixcolumns => true
  | .invmixcolumns => true
  | .mixcol => true
  | .invmixcol => true
  | .gfmul => true
  | .rotword => true
  | .subword => true
  | .pad => true
  | .unpad => true
  | .addroundkey k => legalRoundKeyIndex k

end Sys2Proof
end

