-- ==== Sys2Proof/Decode.lean ====
section
/-! DEFINITION. Command decoding (`30_encoding.md` R92, R93, R100, R101, R102): one byte, `grp` in bits 7:4 and `fn` in
bits 3:0, total and context-free; a reserved encoding is rejected by name. After it the encoder, from the same tables. -/

namespace Sys2Proof

/-- Why a byte is a reserved encoding (R101). -/
inductive Reserved where
  /-- `grp` is 7..15 (R92: "0..6 defined, 7..15 reserved"). -/
  | group (grp : BitVec 4)
  /-- A "must be 0" bit of `fn` is 1 in a group of format M, B, R or P (R93). -/
  | mustBeZero (grp fn : BitVec 4)
  /-- `fn` selects no function: format C other than 0001, format R with `step` = 3, format U with 5..15 (R93). -/
  | function (grp fn : BitVec 4)
  /-- Format K with `k` = 11..15 (R93). -/
  | roundKeyIndex (k : BitVec 4)
  /-- There is no command byte at all: every command is exactly one byte (R92). -/
  | noByte
  deriving DecidableEq, Repr

/-- `grp`, bits 7:4 of a command byte (R92). -/
def grpField (b : Byte) : BitVec 4 := b.extractLsb' 4 4

/-- `fn`, bits 3:0 of a command byte (R92). -/
def fnField (b : Byte) : BitVec 4 := b.extractLsb' 0 4

/-- Format M: `0 0 dir mode` (R93). -/
def decodeMessage (fn : BitVec 4) : Except Reserved Instr :=
  match fn.getLsbD 3 || fn.getLsbD 2, fn.getLsbD 1, fn.getLsbD 0 with
  | true, _, _ => .error (.mustBeZero 1 fn)
  | false, false, false => .ok .encEcb
  | false, false, true => .ok .encCbc
  | false, true, false => .ok .decEcb
  | false, true, true => .ok .decCbc

/-- Format B: `0 0 0 dir` (R93). -/
def decodeBlock (fn : BitVec 4) : Except Reserved Instr :=
  match fn.getLsbD 3 || fn.getLsbD 2 || fn.getLsbD 1, fn.getLsbD 0 with
  | true, _ => .error (.mustBeZero 2 fn)
  | false, false => .ok .blkenc
  | false, true => .ok .blkdec

/-- Format R: `0 step[1:0] inv` (R93). -/
def decodeRound (fn : BitVec 4) : Except Reserved Instr :=
  match fn.getLsbD 3, fn.getLsbD 2, fn.getLsbD 1, fn.getLsbD 0 with
  | true, _, _, _ => .error (.mustBeZero 3 fn)
  | false, false, false, false => .ok .subbytes
  | false, false, false, true => .ok .invsubbytes
  | false, false, true, false => .ok .shiftrows
  | false, false, true, true => .ok .invshiftrows
  | false, true, false, false => .ok .mixcolumns
  | false, true, false, true => .ok .invmixcolumns
  | false, true, true, _ => .error (.function 3 fn)

/-- Format U (R93). -/
def decodeUnit (fn : BitVec 4) : Except Reserved Instr :=
  match fn.toNat with
  | 0 => .ok .mixcol
  | 1 => .ok .invmixcol
  | 2 => .ok .gfmul
  | 3 => .ok .rotword
  | 4 => .ok .subword
  | _ => .error (.function 4 fn)

/-- Format P: `0 0 0 un` (R93). -/
def decodePadding (fn : BitVec 4) : Except Reserved Instr :=
  match fn.getLsbD 3 || fn.getLsbD 2 || fn.getLsbD 1, fn.getLsbD 0 with
  | true, _ => .error (.mustBeZero 5 fn)
  | false, false => .ok .pad
  | false, true => .ok .unpad

/-- Format K: the unsigned immediate `k`, legal 0..10 (R93). -/
def decodeRoundKey (fn : BitVec 4) : Except Reserved Instr :=
  if fn.toNat ≤ 10 then .ok (.addroundkey fn) else .error (.roundKeyIndex fn)

/-- The meaning of a command byte, which "depends on the byte alone" (R102). -/
def decode (b : Byte) : Except Reserved Instr :=
  match (grpField b).toNat with
  | 0 => if fnField b = 1 then .ok .keyload else .error (.function 0 (fnField b))
  | 1 => decodeMessage (fnField b)
  | 2 => decodeBlock (fnField b)
  | 3 => decodeRound (fnField b)
  | 4 => decodeUnit (fnField b)
  | 5 => decodePadding (fnField b)
  | 6 => decodeRoundKey (fnField b)
  | _ => .error (.group (grpField b))

/-- Decoding from a list of bytes: the command is the first byte, the rest is returned (R92: one length, one byte). -/
def decodeBytes : List Byte → Except Reserved (Instr × List Byte)
  | [] => .error .noByte
  | b :: rest =>
    match decode b with
    | .ok i => .ok (i, rest)
    | .error e => .error e

/-- A command byte from its two fields (R92). -/
def commandByte (grp fn : BitVec 4) : Byte := grp ++ fn

/-- The opcode of a command (R100, R93). -/
def encode : Instr → Byte
  | .keyload => commandByte 0 0b0001
  | .encEcb => commandByte 1 0b0000
  | .encCbc => commandByte 1 0b0001
  | .decEcb => commandByte 1 0b0010
  | .decCbc => commandByte 1 0b0011
  | .blkenc => commandByte 2 0b0000
  | .blkdec => commandByte 2 0b0001
  | .subbytes => commandByte 3 0b0000
  | .invsubbytes => commandByte 3 0b0001
  | .shiftrows => commandByte 3 0b0010
  | .invshiftrows => commandByte 3 0b0011
  | .mixcolumns => commandByte 3 0b0100
  | .invmixcolumns => commandByte 3 0b0101
  | .mixcol => commandByte 4 0
  | .invmixcol => commandByte 4 1
  | .gfmul => commandByte 4 2
  | .rotword => commandByte 4 3
  | .subword => commandByte 4 4
  | .pad => commandByte 5 0b0000
  | .unpad => commandByte 5 0b0001
  | .addroundkey k => commandByte 6 k

/-- The command byte of an opcode-table word of `nbits` bits: every bit at and above `nbits` is 0, and a command is the
first byte (R92). -/
def tableByte (nbits w : Nat) : Byte := BitVec.ofNat 8 (w % 2 ^ nbits)

/-- The instruction the decoder reads from an opcode-table word. -/
def decodeTableWord (nbits w : Nat) : Option Instr :=
  match decodeBytes [tableByte nbits w] with
  | .ok (i, _) => some i
  | .error _ => none

end Sys2Proof
end

