-- ==== Sys2Proof/Config.lean ====
section
/-! DEFINITION. What the spec leaves open: the one parameter of the machine, and the free values.
The constant tables, whose values this hardware fixes, are in `Machine/Tables.lean`. -/

namespace Sys2Proof

/-- The parameter `BUF_BYTES` of `00_scope.md` R7: a multiple of 16 with 48 ≤ `BUF_BYTES` ≤ 16384, held as the number of
blocks above three, so that exactly the legal values can be written (log 1). -/
structure Config where
  extraBlocks : Fin 1022
  deriving DecidableEq, Repr

/-- `BUF_BYTES`: the capacity in bytes of IBUF and of OBUF (`10_state.md` R30). -/
def Config.bufBytes (c : Config) : Nat := 48 + 16 * c.extraBlocks.val

/-- `BUF_BYTES` = 64, the value the spec's own programs use (`95_test_vectors.md` Part 3). DESIGN CHOICE (log 1). -/
def Config.standard : Config := ⟨1⟩

/-- FREE VALUE: the byte at offset `j` of IBUF that nothing has written since reset number `epoch`: "any value", one draw
per byte per reset (`10_state.md` R45, `93_implementation_defined.md` U4; log 2). -/
opaque Config.ibufDraw (epoch j : Nat) : BitVec 8

/-- FREE VALUE: the same for OBUF (R45, U4; log 2). -/
opaque Config.obufDraw (epoch j : Nat) : BitVec 8

/-- FREE VALUE: the byte the n-th host read of an address other than STATUS returns while `BUSY = 1`
(`20_memory.md` R62, U2; log 3). -/
opaque Config.busyReadByte (n : Nat) : BitVec 8

/-- FREE VALUE of the host wrapper, outside the hardware: the open parameter `UTF8_ON_ERROR` of `48_host_wrapper.md` R250,
a text or a failure for bytes that are not valid UTF-8 (log 15). -/
opaque Config.utf8OnError (bytes : List (BitVec 8)) : Option String

end Sys2Proof
end

