-- ==== Sys2Proof/Machine/State.lean ====
section
/-! DEFINITION. The state of the engine (`10_state.md` R20 to R46) as plain data, its reset value (R45), and the reasons a
step could stop. The last six fields of `State` are the model's own: the parameter of the machine, what stands on the
engine's ports, and the counters of the free values. -/

namespace Sys2Proof.Machine

open Sys2Proof

/-- A message buffer: (offset, byte) pairs for the bytes written since reset, offsets strictly rising. An offset that is
not listed holds no value of its own and reads as a free value (R45; log 2). -/
abbrev Memory := List Host.Cell

/-- The six error kinds of `60_exceptions.md` R260. An error ends a command; it stops nothing. -/
inductive ErrKind where
  | invalidKeyLength
  | invalidCiphertextLength
  | invalidPadding
  | keyNotLoaded
  | bufferOverflow
  | illegalCommand
  deriving DecidableEq, Repr

/-- The cipher mode of a message command (`30_encoding.md` R93: 0 = ECB, 1 = CBC). -/
inductive Mode where
  | ecb
  | cbc
  deriving DecidableEq, Repr

/-- The sequencer state `SEQ` (`10_state.md` R40): the phase, and with it the counters that have a meaning in that phase
(`widx` in KEYEXP; `blk` in BLKLOAD, ROUND, BLKSTORE; `rnd` in ROUND). In the other phases the counters are "without
meaning" and no value is held for them (log 7). -/
inductive Seq where
  | idle
  | check
  | keyexp (widx : Nat)
  | padgen
  | ivgen
  | blkload (blk : Nat)
  | round (blk rnd : Nat)
  | blkstore (blk : Nat)
  | unpadchk
  | unit
  | finish
  deriving DecidableEq, Repr

/-- What can arrive at the engine's ports (`30_encoding.md` R90), and the engine's own turn (log 5). -/
inductive Event where
  /-- `HostRead(a)` (`20_memory.md` R62). -/
  | read (a : BitVec 16)
  /-- `HostWrite(a, d)` (R63). -/
  | write (a : BitVec 16) (d : Byte)
  /-- The random collaborator's answer to an outstanding `RngDraw()` (`47_mode_controller.md` R224). -/
  | rngAnswer (iv : Block)
  /-- The `Reset` transaction (`70_reset_and_hazards.md` R290). -/
  | reset
  /-- The engine's turn: the command that is running, if any, performs its completion step (R94). -/
  | engine
  deriving DecidableEq, Repr

structure State where
  /-- `KEY[0..15]` (R21). -/
  key : Block
  /-- `KLEN` (R22). -/
  klen : Byte
  /-- `RK[0..10]` (R25). -/
  rk : Vector Block 11
  /-- `KVALID` (R24). -/
  kvalid : Bool
  /-- `S[0..15]` (R23). -/
  sreg : Block
  /-- `CV[0..15]` (R26). -/
  cv : Block
  /-- `IBUF` (R29). -/
  ibuf : Memory
  /-- `ILEN` (R28). -/
  ilen : BitVec 16
  /-- `OBUF` (R31). -/
  obuf : Memory
  /-- `OLEN` (R31). -/
  olen : BitVec 16
  /-- `BUSY` (R32). -/
  busy : Bool
  /-- `DONE` (R32). -/
  done : Bool
  /-- `ERR` (R32). -/
  err : Bool
  /-- `ERRCODE` (R33). -/
  errcode : Byte
  /-- `OPC` (R27). -/
  opc : Byte
  /-- `SEQ` (R40). -/
  seq : Seq
  /-- The parameter `BUF_BYTES` (R30); no step changes it (log 1). -/
  cfg : Config
  /-- The random port: the answer that has arrived and that the running command has not used yet (R224; log 4). -/
  rngResp : Option Block
  /-- The events still to come, in the order in which they land, first one first (log 5). -/
  inbox : List Event
  /-- The host port: the (address, byte) pairs the host reads have returned, newest first (log 6). -/
  reads : List (BitVec 16 × Byte)
  /-- How many resets there have been: the index of the buffers' free values (log 2). -/
  epoch : Nat
  /-- How many host reads have returned a free value: the index of the next one (log 3). -/
  draws : Nat
  deriving DecidableEq, Repr

/-- Why the machine stops with a fault. There is no constructor: the spec gives the engine nothing that stops it.
Errors are reported in STATUS and ERRCODE and the engine goes on (`60_exceptions.md` R270), an access is never refused
(`20_memory.md` R64), and a draw that is never answered leaves the engine busy, not stopped (R280). -/
inductive Fault
  deriving DecidableEq, Repr

/-- Why an instruction has no meaning. -/
inductive Refusal where
  /-- Raised by `exec` for a command that has no meaning yet; safe. No arm of this model raises it. -/
  | notModelled (mnemonic : String)
  deriving DecidableEq, Repr

/-- The eleven round keys all zero. -/
def zeroSchedule : Vector Block 11 := Vector.replicate 11 Block.zero

/-- The state right after reset of an engine of configuration `c` (R45, R291): every register 0, `KVALID` = 0, idle, and
nothing written in either buffer. The model's own fields start empty (log 8). -/
def State.resetOf (c : Config) : State where
  key := Block.zero
  klen := 0
  rk := zeroSchedule
  kvalid := false
  sreg := Block.zero
  cv := Block.zero
  ibuf := []
  ilen := 0
  obuf := []
  olen := 0
  busy := false
  done := false
  err := false
  errcode := 0
  opc := 0
  seq := .idle
  cfg := c
  rngResp := none
  inbox := []
  reads := []
  epoch := 0
  draws := 0

/-- The machine right after reset (R45), with `BUF_BYTES` = 64 (log 1). -/
def State.reset : State := State.resetOf Config.standard

end Sys2Proof.Machine
end

