-- ==== Sys2Proof/Machine/Memory.lean ====
section
/-! DEFINITION. The operations on a message buffer, and its canonical form (`20_memory.md` R60; log 2). -/

namespace Sys2Proof.Machine

open Sys2Proof

/-- The byte written at offset `a` since reset, if any. -/
def Memory.read? : Memory → Nat → Option Byte
  | [], _ => none
  | (k, v) :: m, a => if k = a then some v else Memory.read? m a

/-- The buffer with byte `v` written at offset `a`. -/
def Memory.write : Memory → Nat → Byte → Memory
  | [], a, v => [(a, v)]
  | (k, w) :: m, a, v =>
    if a < k then (a, v) :: (k, w) :: m
    else if a = k then (a, v) :: m
    else (k, w) :: Memory.write m a v

/-- `MemWrite(space, off, len(v), v)` (`00_scope.md` R10), lowest offset first. -/
def Memory.writeBytes : Memory → Nat → List Byte → Memory
  | m, _, [] => m
  | m, off, v :: vs => Memory.writeBytes (Memory.write m off v) (off + 1) vs

/-- A buffer of `cap` bytes with 0x00 written at every offset. -/
def Memory.zeros (cap : Nat) : Memory := (List.range cap).map fun j => (j, 0x00)

/-- The buffer with 0x00 written at every offset from `lo` up to `cap`. -/
def Memory.clearFrom (m : Memory) (lo cap : Nat) : Memory := Memory.writeBytes m lo (List.replicate (cap - lo) 0x00)

/-- The canonical form: offsets strictly rising (so none twice). -/
def Memory.wf : Memory → Bool
  | [] => true
  | [_] => true
  | (a, _) :: (b, w) :: m => decide (a < b) && Memory.wf ((b, w) :: m)

/-- Every listed offset exists in a buffer of `cap` bytes. -/
def Memory.within (m : Memory) (cap : Nat) : Bool := m.all fun c => decide (c.1 < cap)

end Sys2Proof.Machine
end

