-- ==== Sys2Proof/Machine/Flags.lean ====
section
/-! DEFINITION. The status flags: how STATUS is read (`10_state.md` R32), the codes of ERRCODE (`60_exceptions.md` R260),
and every way the flags are written: acceptance and completion (`30_encoding.md` R94), error entry (R270). -/

namespace Sys2Proof.Machine

open Sys2Proof

/-- The code of an error kind (R260). -/
def ErrKind.code (e : ErrKind) : Byte :=
  match e with
  | .invalidKeyLength => 1
  | .invalidCiphertextLength => 2
  | .invalidPadding => 3
  | .keyNotLoaded => 4
  | .bufferOverflow => 5
  | .illegalCommand => 6

/-- `STATUS`: bit 0 BUSY, bit 1 DONE, bit 2 ERR, bit 3 KVALID, bits 7:4 read as 0 (R32). -/
def statusByte (s : State) : Byte :=
  (0 : BitVec 4) ++ BitVec.ofBool s.kvalid ++ BitVec.ofBool s.err ++ BitVec.ofBool s.done ++ BitVec.ofBool s.busy

/-- The flags at acceptance of a command: `BUSY <- 1 ; DONE <- 0 ; ERR <- 0 ; ERRCODE <- 0` (R94). -/
def flagsAccepted (s : State) : State := { s with busy := true, done := false, err := false, errcode := 0 }

/-- The flags at completion: `BUSY <- 0 ; DONE <- 1` (R94). -/
def flagsCompleted (s : State) : State := { s with busy := false, done := true }

/-- The flags an error writes: `ERRCODE <- e ; ERR <- 1` (R270). -/
def flagsError (e : ErrKind) (s : State) : State := { s with err := true, errcode := e.code }

end Sys2Proof.Machine
end

