-- ==== Sys2Proof/Machine/Blocks.lean ====
section
/-! DEFINITION. Indexing of words and blocks (`00_scope.md` R11, `20_memory.md` R65) and their conversion from and to
byte strings, lowest index first. -/

namespace Sys2Proof

/-- Component `t` (0..3) of a word. -/
def Word.get (w : Word) (t : Nat) : Byte :=
  match t with
  | 0 => w.b0
  | 1 => w.b1
  | 2 => w.b2
  | _ => w.b3

/-- The word with component `t` (0..3) replaced. -/
def Word.set (w : Word) (t : Nat) (v : Byte) : Word :=
  match t with
  | 0 => { w with b0 := v }
  | 1 => { w with b1 := v }
  | 2 => { w with b2 := v }
  | _ => { w with b3 := v }

/-- Column `c` (0..3) of a block (R11). -/
def Block.col (b : Block) (c : Nat) : Word :=
  match c with
  | 0 => b.c0
  | 1 => b.c1
  | 2 => b.c2
  | _ => b.c3

/-- The block with column `c` (0..3) replaced. -/
def Block.setCol (b : Block) (c : Nat) (w : Word) : Block :=
  match c with
  | 0 => { b with c0 := w }
  | 1 => { b with c1 := w }
  | 2 => { b with c2 := w }
  | _ => { b with c3 := w }

/-- Byte `i` (0..15) of a block: "byte at linear offset `i` occupies row `i mod 4`, column `i div 4`" (R11). -/
def Block.get (b : Block) (i : Nat) : Byte := (b.col (i / 4)).get (i % 4)

/-- The block with byte `i` (0..15) replaced. -/
def Block.set (b : Block) (i : Nat) (v : Byte) : Block := b.setCol (i / 4) ((b.col (i / 4)).set (i % 4) v)

/-- The matrix view `s[r][c]` (R11). -/
def Block.at (b : Block) (r c : Nat) : Byte := b.get (r + 4 * c)

/-- The block whose byte `i` is `f i`. -/
def Block.ofFn (f : Nat → Byte) : Block :=
  ⟨⟨f 0, f 1, f 2, f 3⟩, ⟨f 4, f 5, f 6, f 7⟩, ⟨f 8, f 9, f 10, f 11⟩, ⟨f 12, f 13, f 14, f 15⟩⟩

/-- The same function on each of the four columns. -/
def Block.mapCols (f : Word → Word) (b : Block) : Block := ⟨f b.c0, f b.c1, f b.c2, f b.c3⟩

/-- The four bytes of a word, component 0 first. -/
def Word.toList (w : Word) : List Byte := [w.b0, w.b1, w.b2, w.b3]

/-- The sixteen bytes of a block in linear order (R65). -/
def Block.toList (b : Block) : List Byte := b.c0.toList ++ b.c1.toList ++ b.c2.toList ++ b.c3.toList

/-- The block made of the bytes `d[off .. off+16)`; the callers keep `off + 16 ≤ len(d)`. -/
def blockAt (d : List Byte) (off : Nat) : Block := Block.ofFn fun i => d.getD (off + i) 0

/-- The consecutive 16-byte blocks of a byte string whose length is a multiple of 16 (`20_memory.md` R68). -/
def blocksOf (d : List Byte) : List Block := (List.range (d.length / 16)).map fun q => blockAt d (16 * q)

/-- The byte string made of consecutive blocks (R68). -/
def bytesOf (bs : List Block) : List Byte := bs.flatMap Block.toList

/-- Bits 7:0 of a 16-bit length register (`20_memory.md` R67). -/
def lowByte (v : BitVec 16) : Byte := v.extractLsb' 0 8

/-- Bits 15:8 of a 16-bit length register (R67). -/
def highByte (v : BitVec 16) : Byte := v.extractLsb' 8 8

/-- A 16-bit length register with its `_LO` byte written (R67). -/
def setLowByte (v : BitVec 16) (d : Byte) : BitVec 16 := highByte v ++ d

/-- A 16-bit length register with its `_HI` byte written (R67). -/
def setHighByte (v : BitVec 16) (d : Byte) : BitVec 16 := d ++ lowByte v

end Sys2Proof
end

