-- ==== Sys2Proof/Machine/Operands.lean ====
section
/-! DEFINITION. The operands of the commands: the bytes of the buffers, the lengths, the round keys and the parts of `S`
the unit commands work on (`20_memory.md` R68, R71). -/

namespace Sys2Proof.Machine

open Sys2Proof

/-- `BUF_BYTES` (`10_state.md` R30). -/
def capacity (s : State) : Nat := s.cfg.bufBytes

/-- `ILEN` as the number the commands compute with (R28). -/
def inputLength (s : State) : Nat := s.ilen.toNat

/-- `OLEN` as a number (R31). -/
def outputLength (s : State) : Nat := s.olen.toNat

/-- `IBUF[j]`, j < `BUF_BYTES`: the byte written there, else the draw of this reset (R45, R296). -/
def ibufByte (s : State) (j : Nat) : Byte :=
  match s.ibuf.read? j with
  | some v => v
  | none => Config.ibufDraw s.epoch j

/-- `OBUF[j]`, j < `BUF_BYTES`, likewise (R31, R45). -/
def obufByte (s : State) (j : Nat) : Byte :=
  match s.obuf.read? j with
  | some v => v
  | none => Config.obufDraw s.epoch j

/-- `MemRead(IBUF, off, n)` (`00_scope.md` R10). -/
def ibufBytes (s : State) (off n : Nat) : List Byte := (List.range n).map fun j => ibufByte s (off + j)

/-- `MemRead(OBUF, off, n)`. -/
def obufBytes (s : State) (off n : Nat) : List Byte := (List.range n).map fun j => obufByte s (off + j)

/-- The message operand `IBUF[0..ILEN)` (R68). -/
def inputBytes (s : State) : List Byte := ibufBytes s 0 (inputLength s)

/-- The result operand `OBUF[0..OLEN)` (R68). -/
def outputBytes (s : State) : List Byte := obufBytes s 0 (outputLength s)

/-- `RK[k]`, k = 0..10 (R25). -/
def roundKey (rk : Vector Block 11) (k : Nat) : Block := rk.getD k Block.zero

/-- The column operand of MIXCOL, INVMIXCOL, ROTWORD and SUBWORD: `S[0..3] <- f(S[0..3])`, all four bytes at once (R133,
R134, R157, R158). -/
def onFirstColumn (f : Word → Word) (b : Block) : Block := b.setCol 0 (f (b.col 0))

end Sys2Proof.Machine
end

