-- ==== Sys2Proof/Machine/Ops.lean ====
section
/-! DEFINITION. The shared operations of the commands: acceptance and completion (`30_encoding.md` R94), error entry
(`60_exceptions.md` R270), the store of a result (`47_mode_controller.md` R221) and reset (`70_reset_and_hazards.md` R290).
There is no return from an error (R272): the next acceptance clears ERR and ERRCODE. -/

namespace Sys2Proof.Machine

open Sys2Proof

/-- Acceptance of the command byte `d` (R94): `OPC <- d`, the flags, `seq <- (phase = CHECK)`. "Nothing else changes at
acceptance." -/
def accept (d : Byte) (s : State) : State := { flagsAccepted s with opc := d, seq := .check }

/-- The end of a completion step (R94): `BUSY <- 0 ; DONE <- 1 ; seq <- (phase = IDLE)`. -/
def complete (s : State) : State := { flagsCompleted s with seq := .idle }

/-- What an error clears before the command ends (R270): `OLEN <- 0`, OBUF all 0x00, `S <- 0^16`, `CV <- 0^16`. -/
def clearOutputs (s : State) : State :=
  { s with olen := 0, obuf := Memory.zeros (capacity s), sreg := Block.zero, cv := Block.zero }

/-- Error entry, `raise E` (R270). This is the one operation every error of every command goes through; it is also the
whole of "taking an exception" on this hardware: no handler, no vector, no saved context. -/
def raise (e : ErrKind) (s : State) : State := complete (clearOutputs (flagsError e s))

/-- What KEYLOAD does before `raise InvalidKeyLength`: `KVALID <- 0 ; RK <- all zero` (R155, R270). -/
def dropSchedule (s : State) : State := { s with kvalid := false, rk := zeroSchedule }

/-- The result of a command in OBUF (R208, R209, R221): all of OBUF 0x00, then `MemWrite(OBUF, 0, len(v), v)`, and
`OLEN <- len(v)`. -/
def storeResult (v : List Byte) (s : State) : State :=
  { s with obuf := (Memory.zeros (capacity s)).writeBytes 0 v, olen := BitVec.ofNat 16 v.length }

/-- `S <- 0^16 ; CV <- 0^16`, the end of every message command (R221). -/
def clearWorking (s : State) : State := { s with sreg := Block.zero, cv := Block.zero }

/-- A unit command that needs no key: `S <- f(S)` and completion (R94; `44_round_steps.md` section 2). -/
def unitCommand (f : Block → Block) (s : State) : Host.Outcome State Fault Refusal :=
  .next (complete { s with sreg := f s.sreg })

/-- A command on `S` that reads `RK`: KeyNotLoaded when `KVALID` = 0 (R264), else `S <- f(S, RK)` and completion. -/
def keyedCommand (f : Block → Vector Block 11 → Block) (s : State) : Host.Outcome State Fault Refusal :=
  if s.kvalid then .next (complete { s with sreg := f s.sreg s.rk }) else .next (raise .keyNotLoaded s)

/-- The `Reset` transaction (R290, R291): every piece of engine state becomes that of R45 "whatever it was". The parameter
of the machine and what stands outside the engine stay; the buffers get new draws. -/
def resetEngine (s : State) : State :=
  { State.resetOf s.cfg with inbox := s.inbox, reads := s.reads, epoch := s.epoch + 1, draws := s.draws }

end Sys2Proof.Machine
end

