-- ==== Sys2Proof/Machine/GaloisField.lean ====
section
/-! DEFINITION. The GF(2^8) multiplier (`40_galois_field.md` R120, R122) and the command GFMUL (R123). -/

namespace Sys2Proof.Machine

open Sys2Proof

/-- The loop body of R120, `n` times, on the product `p` and the factors `a`, `b`. -/
def multiplyLoop : Nat → Byte → Byte → Byte → Byte
  | 0, p, _, _ => p
  | n + 1, p, a, b =>
    multiplyLoop n
      (if b &&& 0x01 = 0x01 then p ^^^ a else p)
      (if a &&& 0x80 = 0x00 then a <<< 1 else (a <<< 1) ^^^ 0x1B)
      (b >>> 1)

/-- `multiply(a, b)`, written `a • b` in the spec (R120): the loop runs exactly 8 times. -/
def multiply (a b : Byte) : Byte := multiplyLoop 8 0x00 a b

/-- `xt(a) = 0x02 • a` in the closed form of R122. -/
def xt (a : Byte) : Byte := (a <<< 1) ^^^ (if a &&& 0x80 = 0x00 then 0x00 else 0x1B)

/-- `S[2] <- multiply(S[0], S[1])` (R123). -/
def gfmulBlock (b : Block) : Block := b.set 2 (multiply (b.get 0) (b.get 1))

/-- GFMUL (R123). -/
def execGfmul (s : State) : Host.Outcome State Fault Refusal := unitCommand gfmulBlock s

end Sys2Proof.Machine
end

