-- ==== Sys2Proof/Machine/ColumnMixer.lean ====
section
/-! DEFINITION. The column mixer and its inverse (`41_column_mixer.md` R130, R131), MIXCOL (R133) and INVMIXCOL (R134). -/

namespace Sys2Proof.Machine

open Sys2Proof

/-- One output byte: the field sum of the products of a matrix row with the column (R130). -/
def rowProduct (m c : Word) : Byte :=
  multiply m.b0 c.b0 ^^^ multiply m.b1 c.b1 ^^^ multiply m.b2 c.b2 ^^^ multiply m.b3 c.b3

/-- `mixColumn(col)` with the matrix [[2,3,1,1],[1,2,3,1],[1,1,2,3],[3,1,1,2]] (R130). -/
def mixColumn (c : Word) : Word :=
  ⟨rowProduct ⟨2, 3, 1, 1⟩ c, rowProduct ⟨1, 2, 3, 1⟩ c, rowProduct ⟨1, 1, 2, 3⟩ c, rowProduct ⟨3, 1, 1, 2⟩ c⟩

/-- `invMixColumn(col)` with the matrix [[14,11,13,9],[9,14,11,13],[13,9,14,11],[11,13,9,14]] (R131). -/
def invMixColumn (c : Word) : Word :=
  ⟨rowProduct ⟨14, 11, 13, 9⟩ c, rowProduct ⟨9, 14, 11, 13⟩ c, rowProduct ⟨13, 9, 14, 11⟩ c,
    rowProduct ⟨11, 13, 9, 14⟩ c⟩

/-- MIXCOL (R133): `S[0..3] <- mixColumn(S[0..3])`. -/
def execMixcol (s : State) : Host.Outcome State Fault Refusal := unitCommand (onFirstColumn mixColumn) s

/-- INVMIXCOL (R134): `S[0..3] <- invMixColumn(S[0..3])`. -/
def execInvmixcol (s : State) : Host.Outcome State Fault Refusal := unitCommand (onFirstColumn invMixColumn) s

end Sys2Proof.Machine
end

