-- ==== Sys2Proof/Machine/KeySchedule.lean ====
section
/-! DEFINITION. The key schedule (`43_key_schedule.md` R150 to R154) and its commands KEYLOAD (R155), ROTWORD (R157) and
SUBWORD (R158). -/

namespace Sys2Proof.Machine

open Sys2Proof

/-- `RotWord` (R151). -/
def rotWord (w : Word) : Word := ⟨w.b1, w.b2, w.b3, w.b0⟩

/-- `SubWord` (R152). -/
def subWord (w : Word) : Word := ⟨sbox w.b0, sbox w.b1, sbox w.b2, sbox w.b3⟩

/-- The word `w[i]` from `prev = w[i-1]` and `back = w[i-4]`: the loop body of R153. -/
def nextWord (i : Nat) (prev back : Word) : Word :=
  back.xor (if i % 4 = 0 then (subWord (rotWord prev)).xor ⟨rcon (i / 4), 0, 0, 0⟩ else prev)

/-- The loop of R153: from the words `w[0..i)` it appends `n` words. -/
def expandLoop : Nat → List Word → List Word
  | 0, w => w
  | n + 1, w =>
    expandLoop n (w ++ [nextWord w.length (w.getD (w.length - 1) Word.zero) (w.getD (w.length - 4) Word.zero)])

/-- `expand(key)`, the 44 words of R153; `w[0..3]` are the key bytes in order (R150, R66). -/
def expandWords (key : Block) : List Word := expandLoop 40 [key.c0, key.c1, key.c2, key.c3]

/-- Round key `k` of a word list: `w[4k + c]` is column `c` (R66, R153). -/
def roundKeyOf (w : List Word) (k : Nat) : Block :=
  ⟨w.getD (4 * k) Word.zero, w.getD (4 * k + 1) Word.zero, w.getD (4 * k + 2) Word.zero, w.getD (4 * k + 3) Word.zero⟩

/-- The eleven round keys of a word list (R153, R155). -/
def scheduleOf (w : List Word) : Vector Block 11 :=
  #v[roundKeyOf w 0, roundKeyOf w 1, roundKeyOf w 2, roundKeyOf w 3, roundKeyOf w 4, roundKeyOf w 5, roundKeyOf w 6,
    roundKeyOf w 7, roundKeyOf w 8, roundKeyOf w 9, roundKeyOf w 10]

/-- The round-key schedule of a key (R153). -/
def expand (key : Block) : Vector Block 11 := scheduleOf (expandWords key)

/-- KEYLOAD (R155). -/
def execKeyload (s : State) : Host.Outcome State Fault Refusal :=
  if s.klen = 16 then .next (complete { s with rk := expand s.key, kvalid := true })
  else .next (raise .invalidKeyLength (dropSchedule s))

/-- ROTWORD (R157). -/
def execRotword (s : State) : Host.Outcome State Fault Refusal := unitCommand (onFirstColumn rotWord) s

/-- SUBWORD (R158). -/
def execSubword (s : State) : Host.Outcome State Fault Refusal := unitCommand (onFirstColumn subWord) s

end Sys2Proof.Machine
end

