-- ==== Sys2Proof/Machine/RoundSteps.lean ====
section
/-! DEFINITION. The round steps of the block transform and their inverses (`44_round_steps.md` R170 to R176) and the seven
commands that apply each of them once to `S` (R177 to R183). -/

namespace Sys2Proof.Machine

open Sys2Proof

/-- `SubBytes` (R170). -/
def subBytes (b : Block) : Block := Block.ofFn fun i => sbox (b.get i)

/-- `InvSubBytes` (R171). -/
def invSubBytes (b : Block) : Block := Block.ofFn fun i => invSbox (b.get i)

/-- `ShiftRows` (R172): `s'[r][c] = s[r][(c + r) mod 4]`, with r = i mod 4 and c = i div 4. -/
def shiftRows (b : Block) : Block := Block.ofFn fun i => b.at (i % 4) ((i / 4 + i % 4) % 4)

/-- `InvShiftRows` (R173): `s'[r][c] = s[r][(c + 4 - r) mod 4]`. -/
def invShiftRows (b : Block) : Block := Block.ofFn fun i => b.at (i % 4) ((i / 4 + 4 - i % 4) % 4)

/-- `MixColumns` (R174). -/
def mixColumns (b : Block) : Block := b.mapCols mixColumn

/-- `InvMixColumns` (R175). -/
def invMixColumns (b : Block) : Block := b.mapCols invMixColumn

/-- `AddRoundKey` (R176). -/
def addRoundKey (b k : Block) : Block := b.xor k

/-- SUBBYTES (R177). -/
def execSubbytes (s : State) : Host.Outcome State Fault Refusal := unitCommand subBytes s

/-- INVSUBBYTES (R178). -/
def execInvsubbytes (s : State) : Host.Outcome State Fault Refusal := unitCommand invSubBytes s

/-- SHIFTROWS (R179). -/
def execShiftrows (s : State) : Host.Outcome State Fault Refusal := unitCommand shiftRows s

/-- INVSHIFTROWS (R180). -/
def execInvshiftrows (s : State) : Host.Outcome State Fault Refusal := unitCommand invShiftRows s

/-- MIXCOLUMNS (R181). -/
def execMixcolumns (s : State) : Host.Outcome State Fault Refusal := unitCommand mixColumns s

/-- INVMIXCOLUMNS (R182). -/
def execInvmixcolumns (s : State) : Host.Outcome State Fault Refusal := unitCommand invMixColumns s

/-- ADDROUNDKEY k (R183). The decoder yields only k = 0..10; for k = 11..15, whose bytes are reserved encodings, the
meaning is what R265 says of those bytes (log 11). -/
def execAddroundkey (k : BitVec 4) (s : State) : Host.Outcome State Fault Refusal :=
  if legalRoundKeyIndex k then keyedCommand (fun b rk => addRoundKey b (roundKey rk k.toNat)) s
  else .next (raise .illegalCommand s)

end Sys2Proof.Machine
end

