-- ==== Sys2Proof/Machine/BlockTransform.lean ====
section
/-! DEFINITION. The 10-round block functions `Cipher` and `InvCipher` (`45_block_transform.md` R190, R191) and the commands
BLKENC (R194) and BLKDEC (R195). -/

namespace Sys2Proof.Machine

open Sys2Proof

/-- One of the rounds 1..9 of the forward sequence (R190). -/
def forwardRound (rk : Vector Block 11) (t : Block) (round : Nat) : Block :=
  addRoundKey (mixColumns (shiftRows (subBytes t))) (roundKey rk round)

/-- `Cipher(B, RK)` (R190); MixColumns is omitted in round 10. -/
def cipher (b : Block) (rk : Vector Block 11) : Block :=
  addRoundKey
    (shiftRows (subBytes ([1, 2, 3, 4, 5, 6, 7, 8, 9].foldl (forwardRound rk) (addRoundKey b (roundKey rk 0)))))
    (roundKey rk 10)

/-- One of the rounds 1..9 of the inverse sequence (R191): the key is `RK[10 - round]`. -/
def inverseRound (rk : Vector Block 11) (t : Block) (round : Nat) : Block :=
  invSubBytes (invShiftRows (invMixColumns (addRoundKey t (roundKey rk (10 - round)))))

/-- `InvCipher(B, RK)` (R191). -/
def invCipher (b : Block) (rk : Vector Block 11) : Block :=
  addRoundKey
    ([1, 2, 3, 4, 5, 6, 7, 8, 9].foldl (inverseRound rk)
      (invSubBytes (invShiftRows (addRoundKey b (roundKey rk 10)))))
    (roundKey rk 0)

/-- BLKENC (R194). -/
def execBlkenc (s : State) : Host.Outcome State Fault Refusal := keyedCommand cipher s

/-- BLKDEC (R195). -/
def execBlkdec (s : State) : Host.Outcome State Fault Refusal := keyedCommand invCipher s

end Sys2Proof.Machine
end

