-- ==== Sys2Proof/Machine/Padding.lean ====
section
/-! DEFINITION. Padding and unpadding (`46_padding.md` R205, R206) and the commands PAD (R208) and UNPAD (R209). -/

namespace Sys2Proof.Machine

open Sys2Proof

/-- The pad length of a message of `n` bytes: `16 - (n mod 16)`, 1..16 (R205). -/
def padLength (n : Nat) : Nat := 16 - n % 16

/-- `len(pad(m))` for `len(m) = n`: `16 * (n div 16 + 1)`, computed without wrap-around (R205, R208). -/
def paddedLength (n : Nat) : Nat := 16 * (n / 16 + 1)

/-- `pad(m)` (R205). -/
def pad (m : List Byte) : List Byte :=
  m ++ List.replicate (padLength m.length) (BitVec.ofNat 8 (padLength m.length))

/-- The last byte of a byte string. -/
def lastByte (d : List Byte) : Byte := d.getD (d.length - 1) 0

/-- The test `d[len(d) - j] = p` for j in 1..p (R206). -/
def paddingBytesAgree (d : List Byte) (p : Byte) : Bool :=
  (List.range p.toNat).all fun j => d.getD (d.length - (j + 1)) 0 == p

/-- `unpad(d)` (R206); `none` is `raise InvalidPadding`. A `d` shorter than its own pad length, which no command can pass,
is InvalidPadding too (log 12). -/
def unpad (d : List Byte) : Option (List Byte) :=
  if d.length = 0 then none
  else if (lastByte d).toNat < 1 ∨ 16 < (lastByte d).toNat then none
  else if d.length < (lastByte d).toNat then none
  else if paddingBytesAgree d (lastByte d) then some (d.take (d.length - (lastByte d).toNat))
  else none

/-- The check of decrypt step 1: the length is not "a positive multiple of 16" (R209, R220, R262). -/
def badCiphertextLength (n : Nat) : Bool := decide (n = 0 ∨ n % 16 ≠ 0)

/-- PAD (R208). -/
def execPad (s : State) : Host.Outcome State Fault Refusal :=
  if capacity s < paddedLength (inputLength s) then .next (raise .bufferOverflow s)
  else .next (complete (storeResult (pad (inputBytes s)) s))

/-- UNPAD (R209). -/
def execUnpad (s : State) : Host.Outcome State Fault Refusal :=
  if capacity s < inputLength s then .next (raise .bufferOverflow s)
  else if badCiphertextLength (inputLength s) then .next (raise .invalidCiphertextLength s)
  else
    match unpad (inputBytes s) with
    | none => .next (raise .invalidPadding s)
    | some m => .next (complete (storeResult m s))

end Sys2Proof.Machine
end

