-- ==== Sys2Proof/Machine/ModeController.lean ====
section
/-! DEFINITION. The ECB/CBC mode controller: the message functions (`47_mode_controller.md` R222, R223), the common
preamble and epilogue (R220, R221) and the commands ENC.ECB (R225), ENC.CBC (R226), DEC.ECB (R227), DEC.CBC (R228). -/

namespace Sys2Proof.Machine

open Sys2Proof

/-- The block that enters the cipher: XORed with the chaining variable in CBC only (R222). -/
def chainIn (mode : Mode) (cv b : Block) : Block :=
  match mode with
  | .ecb => b
  | .cbc => b.xor cv

/-- The chaining variable after a block whose ciphertext is `c`; ECB never updates it (R222, R223). -/
def chainNext (mode : Mode) (cv c : Block) : Block :=
  match mode with
  | .ecb => cv
  | .cbc => c

/-- The block loop of R222 from the chaining variable `cv`. -/
def encryptLoop (rk : Vector Block 11) (mode : Mode) : Block → List Block → List Block
  | _, [] => []
  | cv, b :: bs =>
    cipher (chainIn mode cv b) rk :: encryptLoop rk mode (chainNext mode cv (cipher (chainIn mode cv b) rk)) bs

/-- The block loop of R223 from the chaining variable `cv`: the next one is the ciphertext block just processed. -/
def decryptLoop (rk : Vector Block 11) (mode : Mode) : Block → List Block → List Block
  | _, [] => []
  | cv, c :: cs => chainIn mode cv (invCipher c rk) :: decryptLoop rk mode (chainNext mode cv c) cs

/-- `EncryptMessage(m, RK, cbc, iv)` (R222); `iv` is not used in ECB. -/
def encryptMessage (m : List Byte) (rk : Vector Block 11) (mode : Mode) (iv : Block) : List Byte :=
  match mode with
  | .ecb => bytesOf (encryptLoop rk .ecb Block.zero (blocksOf (pad m)))
  | .cbc => iv.toList ++ bytesOf (encryptLoop rk .cbc iv (blocksOf (pad m)))

/-- The decrypted byte stream before unpadding (R223 steps 2 and 3). -/
def decryptStream (c : List Byte) (rk : Vector Block 11) (mode : Mode) : List Byte :=
  match mode with
  | .ecb => bytesOf (decryptLoop rk .ecb Block.zero (blocksOf c))
  | .cbc => bytesOf (decryptLoop rk .cbc (blockAt c 0) (blocksOf (c.drop 16)))

/-- `DecryptMessage(c, RK, cbc)` (R223); `none` is InvalidPadding. -/
def decryptMessage (c : List Byte) (rk : Vector Block 11) (mode : Mode) : Option (List Byte) :=
  unpad (decryptStream c rk mode)

/-- The output length of an encryption of `n` bytes, without wrap-around (R220, R222). -/
def encryptedLength (mode : Mode) (n : Nat) : Nat :=
  match mode with
  | .ecb => paddedLength n
  | .cbc => paddedLength n + 16

/-- The checks of an encryption command before any block (R220): the error it ends with, if any. -/
def encryptCheck (mode : Mode) (s : State) : Option ErrKind :=
  if !s.kvalid then some .keyNotLoaded
  else if capacity s < encryptedLength mode (inputLength s) then some .bufferOverflow
  else none

/-- The checks of a decryption command before any block (R220). -/
def decryptCheck (s : State) : Option ErrKind :=
  if !s.kvalid then some .keyNotLoaded
  else if capacity s < inputLength s then some .bufferOverflow
  else if badCiphertextLength (inputLength s) then some .invalidCiphertextLength
  else none

/-- The epilogue of a message command that succeeds (R221), and completion. -/
def finishMessage (result : List Byte) (s : State) : State := complete (clearWorking (storeResult result s))

/-- A decryption command (R227, R228). -/
def decryptCommand (mode : Mode) (s : State) : Host.Outcome State Fault Refusal :=
  match decryptCheck s with
  | some e => .next (raise e s)
  | none =>
    match decryptMessage (inputBytes s) s.rk mode with
    | none => .next (raise .invalidPadding s)
    | some m => .next (finishMessage m s)

/-- ENC.ECB (R225); it makes no random draw. -/
def execEncEcb (s : State) : Host.Outcome State Fault Refusal :=
  match encryptCheck .ecb s with
  | some e => .next (raise e s)
  | none => .next (finishMessage (encryptMessage (inputBytes s) s.rk .ecb Block.zero) s)

/-- ENC.CBC (R226). The draw is made after the checks; while the collaborator has not answered, the completion step does
not happen and the engine stays busy (R94, R280; log 4). -/
def execEncCbc (s : State) : Host.Outcome State Fault Refusal :=
  match encryptCheck .cbc s with
  | some e => .next (raise e s)
  | none =>
    match s.rngResp with
    | none => .next s
    | some iv =>
      .next (finishMessage (encryptMessage (inputBytes s) s.rk .cbc iv) { s with rngResp := none })

/-- DEC.ECB (R227). -/
def execDecEcb (s : State) : Host.Outcome State Fault Refusal := decryptCommand .ecb s

/-- DEC.CBC (R228). -/
def execDecCbc (s : State) : Host.Outcome State Fault Refusal := decryptCommand .cbc s

end Sys2Proof.Machine
end

