-- ==== Sys2Proof/Machine/Dispatch.lean ====
section
/-! DEFINITION. The meaning of every command: one arm per constructor of `Instr`. `exec i s` is the completion step
(`30_encoding.md` R94) of command `i` in state `s`. -/

namespace Sys2Proof.Machine

open Sys2Proof

def exec (i : Instr) (s : State) : Host.Outcome State Fault Refusal :=
  match i with
  | .keyload => Sys2Proof.Machine.execKeyload s
  | .encEcb => Sys2Proof.Machine.execEncEcb s
  | .encCbc => Sys2Proof.Machine.execEncCbc s
  | .decEcb => Sys2Proof.Machine.execDecEcb s
  | .decCbc => Sys2Proof.Machine.execDecCbc s
  | .blkenc => Sys2Proof.Machine.execBlkenc s
  | .blkdec => Sys2Proof.Machine.execBlkdec s
  | .subbytes => Sys2Proof.Machine.execSubbytes s
  | .invsubbytes => Sys2Proof.Machine.execInvsubbytes s
  | .shiftrows => Sys2Proof.Machine.execShiftrows s
  | .invshiftrows => Sys2Proof.Machine.execInvshiftrows s
  | .mixcolumns => Sys2Proof.Machine.execMixcolumns s
  | .invmixcolumns => Sys2Proof.Machine.execInvmixcolumns s
  | .mixcol => Sys2Proof.Machine.execMixcol s
  | .invmixcol => Sys2Proof.Machine.execInvmixcol s
  | .gfmul => Sys2Proof.Machine.execGfmul s
  | .rotword => Sys2Proof.Machine.execRotword s
  | .subword => Sys2Proof.Machine.execSubword s
  | .pad => Sys2Proof.Machine.execPad s
  | .unpad => Sys2Proof.Machine.execUnpad s
  | .addroundkey k => Sys2Proof.Machine.execAddroundkey k s

end Sys2Proof.Machine
end

