-- ==== Sys2Proof/Machine/HostPort.lean ====
section
/-! DEFINITION. The ports of the engine: the host address map (`20_memory.md` R61), `HostRead` (R62), `HostWrite` (R63),
the random port (`47_mode_controller.md` R224), and the engine's own turn (`30_encoding.md` R94). -/

namespace Sys2Proof.Machine

open Sys2Proof

/-- What stands at a host address (R61). -/
inductive Region where
  | cmd
  | status
  | errcode
  | klen
  | ilenLo
  | ilenHi
  | olenLo
  | olenHi
  | key (i : Nat)
  | sreg (i : Nat)
  | ibuf (j : Nat)
  | obuf (j : Nat)
  | reserved
  deriving DecidableEq, Repr

/-- The host address map for buffers of `cap` bytes (R61). -/
def regionOf (cap : Nat) (a : BitVec 16) : Region :=
  if a = 0x0000 then .cmd
  else if a = 0x0001 then .status
  else if a = 0x0002 then .errcode
  else if a = 0x0003 then .klen
  else if a = 0x0004 then .ilenLo
  else if a = 0x0005 then .ilenHi
  else if a = 0x0006 then .olenLo
  else if a = 0x0007 then .olenHi
  else if 0x0010 ≤ a.toNat ∧ a.toNat ≤ 0x001F then .key (a.toNat - 0x0010)
  else if 0x0020 ≤ a.toNat ∧ a.toNat ≤ 0x002F then .sreg (a.toNat - 0x0020)
  else if 0x4000 ≤ a.toNat ∧ a.toNat < 0x4000 + cap then .ibuf (a.toNat - 0x4000)
  else if 0x8000 ≤ a.toNat ∧ a.toNat < 0x8000 + cap then .obuf (a.toNat - 0x8000)
  else .reserved

/-- The byte an idle engine returns (R62): the byte held at an RW or RO address, 0x00 at a WO or reserved one. -/
def regionRead (s : State) (r : Region) : Byte :=
  match r with
  | .cmd => 0x00
  | .status => statusByte s
  | .errcode => s.errcode
  | .klen => s.klen
  | .ilenLo => lowByte s.ilen
  | .ilenHi => highByte s.ilen
  | .olenLo => lowByte s.olen
  | .olenHi => highByte s.olen
  | .key _ => 0x00
  | .sreg i => s.sreg.get i
  | .ibuf j => ibufByte s j
  | .obuf j => obufByte s j
  | .reserved => 0x00

/-- A byte the host port returns. -/
def respond (a : BitVec 16) (d : Byte) (s : State) : State := { s with reads := (a, d) :: s.reads }

/-- `HostRead(a)` (R62). While `BUSY` = 1 only STATUS is read as it is; any other address returns a free value. -/
def hostRead (a : BitVec 16) (s : State) : State :=
  if s.busy then
    if a = 0x0001 then respond a (statusByte s) s
    else respond a (Config.busyReadByte s.draws) { s with draws := s.draws + 1 }
  else respond a (regionRead s (regionOf (capacity s) a)) s

/-- A write an idle engine takes (R63). RO and reserved addresses ignore it (R64). -/
def regionWrite (r : Region) (d : Byte) (s : State) : State :=
  match r with
  | .cmd => accept d s
  | .status => s
  | .errcode => s
  | .klen => { s with klen := d }
  | .ilenLo => { s with ilen := setLowByte s.ilen d }
  | .ilenHi => { s with ilen := setHighByte s.ilen d }
  | .olenLo => s
  | .olenHi => s
  | .key i => { s with key := s.key.set i d }
  | .sreg i => { s with sreg := s.sreg.set i d }
  | .ibuf j => { s with ibuf := s.ibuf.write j d }
  | .obuf _ => s
  | .reserved => s

/-- `HostWrite(a, d)` (R63): dropped while `BUSY` = 1, whatever the address. -/
def hostWrite (a : BitVec 16) (d : Byte) (s : State) : State :=
  if s.busy then s else regionWrite (regionOf (capacity s) a) d s

/-- Whether a `RngDraw()` is outstanding: ENC.CBC is running, its checks pass, and no answer has come (R220, R224). -/
def drawOutstanding (s : State) : Bool :=
  s.busy && decide (s.opc = encode .encCbc) && decide (encryptCheck .cbc s = none) && decide (s.rngResp = none)

/-- An answer at the random port: taken when a request is outstanding, ignored otherwise (R224, R290; log 4).
DESIGN CHOICE: an answer names no request. If a reset has forgotten a request and a later ENC.CBC has one outstanding, the
first answer to arrive is taken as the later one's; no rule says how the engine would tell the two apart (log 4). -/
def takeRngAnswer (iv : Block) (s : State) : State :=
  if drawOutstanding s then { s with rngResp := some iv } else s

/-- The engine's turn: the completion step of the command in `OPC` (R94), IllegalCommand for a reserved encoding (R101,
R265). An idle engine "never changes state spontaneously" (`20_memory.md` R72). -/
def engineTurn (s : State) : Host.Outcome State Fault Refusal :=
  if s.busy then
    match decode s.opc with
    | .ok i => exec i s
    | .error _ => .next (raise .illegalCommand s)
  else .next s

/-- One event at the engine's ports. -/
def deliver (e : Event) (s : State) : Host.Outcome State Fault Refusal :=
  match e with
  | .read a => .next (hostRead a s)
  | .write a d => .next (hostWrite a d s)
  | .rngAnswer iv => .next (takeRngAnswer iv s)
  | .reset => .next (resetEngine s)
  | .engine => engineTurn s

end Sys2Proof.Machine
end

