-- ==== Sys2Proof/Machine/Step.lean ====
section
/-! DEFINITION. One step of the machine, and how the host places a command for the next step. -/

namespace Sys2Proof.Machine

open Sys2Proof

/-- One step: the first event of the inbox lands; when nothing more is to come, it is the engine's turn (log 5). -/
def step (s : State) : Host.Outcome State Fault Refusal :=
  match s.inbox with
  | [] => engineTurn s
  | e :: rest => deliver e { s with inbox := rest }

/-- The state in which the next step runs the command byte of an opcode-table word: the byte has been accepted (R94) and
the next event is the engine's turn (log 9). -/
def State.withFetchWord (s : State) (nbits w : Nat) : State :=
  { accept (tableByte nbits w) s with inbox := .engine :: s.inbox }

end Sys2Proof.Machine
end

