-- ==== Sys2Proof/Machine/Script.lean ====
section
/-! DEFINITION. The host scripts of `30_encoding.md` R103 and the pseudo-instructions of R104, run against the machine's
`step`. This is the test bench's side of the host port, outside the hardware. -/

namespace Sys2Proof.Machine

open Sys2Proof

/-- A statement of R103. -/
inductive Stmt where
  | wr (a : BitVec 16) (d : Byte)
  | rd (a : BitVec 16)
  | cmd (i : Instr)
  | wait
  | rng (h : Block)
  deriving DecidableEq, Repr

/-- A machine and the answer the bench holds for the next draw (R103 `RNG h`): one at most, no queue (log 15). -/
structure Bench where
  state : State
  answer : Option Block
  deriving DecidableEq, Repr

/-- One event presented to the machine before any other. -/
def present (e : Event) (s : State) : Option State :=
  match step { s with inbox := e :: s.inbox } with
  | .next t => some t
  | .fault _ => none
  | .refused _ => none

/-- The bench answers an outstanding draw if it holds an answer. -/
def answerDraw (b : Bench) : Option Bench :=
  match b.answer with
  | none => some b
  | some h =>
    if drawOutstanding b.state then (present (.rngAnswer h) b.state).map fun t => ⟨t, none⟩ else some b

/-- `WAIT`: `RD 0001` until bit 0 is 0 (R103). A command that is running gets its turn after the first poll; if the engine
is still busy then (R280), the script does not go on: `none`. -/
def waitIdle (s : State) : Option State :=
  match present (.read 0x0001) s with
  | none => none
  | some t =>
    if t.busy then
      match present .engine t with
      | none => none
      | some u => if u.busy then none else present (.read 0x0001) u
    else some t

/-- One statement (R103); `none` when the script does not go on. DESIGN CHOICE: a second `RNG` before a draw replaces the
answer held; R103 does not say whether answers queue (log 15). -/
def runStmt (st : Stmt) (b : Bench) : Option Bench :=
  match st with
  | .wr a d => ((present (.write a d) b.state).map fun t => { b with state := t }).bind answerDraw
  | .rd a => (present (.read a) b.state).map fun t => { b with state := t }
  | .cmd i => ((present (.write 0x0000 (encode i)) b.state).map fun t => { b with state := t }).bind answerDraw
  | .wait => (waitIdle b.state).map fun t => { b with state := t }
  | .rng h => answerDraw { b with answer := some h }

/-- A script. -/
def runScript : List Stmt → Bench → Option Bench
  | [], b => some b
  | st :: rest, b => (runStmt st b).bind (runScript rest)

/-- Writes of consecutive bytes from address `base`. -/
def writesFrom (base : Nat) (h : List Byte) : List Stmt :=
  (List.range h.length).map fun i => .wr (BitVec.ofNat 16 (base + i)) (h.getD i 0)

/-- `KEY h` (R104); a length above 255 is written as 255 (`48_host_wrapper.md` R247). -/
def keyStmts (h : List Byte) : List Stmt :=
  writesFrom 0x0010 (h.take 16) ++ [.wr 0x0003 (BitVec.ofNat 8 (min h.length 255))]

/-- `BLK h`, `h` of sixteen bytes (R104). -/
def blkStmts (h : Block) : List Stmt := writesFrom 0x0020 h.toList

/-- `LEN n` (R104). DESIGN CHOICE: for `n` ≥ 65536, where `n div 256` is no byte and R104 gives no expansion, the second
write carries `n div 256` modulo 256 (log 15). -/
def lenStmts (n : Nat) : List Stmt := [.wr 0x0004 (BitVec.ofNat 8 (n % 256)), .wr 0x0005 (BitVec.ofNat 8 (n / 256))]

/-- `MSG h` (R104). Bytes that would fall beyond address FFFF have no address and are not written (log 15). -/
def msgStmts (h : List Byte) : List Stmt := writesFrom 0x4000 (h.take 0xC000) ++ lenStmts h.length

/-- `GETBLK` (R104). -/
def getblkStmts : List Stmt := (List.range 16).map fun i => .rd (BitVec.ofNat 16 (0x0020 + i))

/-- `RUN mnemonic` (R104). -/
def runStmts (i : Instr) : List Stmt := [.cmd i, .wait]

/-- The byte the last host read returned. -/
def lastRead (s : State) : Byte :=
  match s.reads with
  | [] => 0
  | (_, d) :: _ => d

/-- Reads of consecutive addresses: the bytes returned and the machine after them. -/
def readsFrom : Nat → Nat → State → Option (List Byte × State)
  | _, 0, s => some ([], s)
  | base, n + 1, s =>
    match present (.read (BitVec.ofNat 16 base)) s with
    | none => none
    | some t =>
      match readsFrom (base + 1) n t with
      | none => none
      | some (ds, u) => some (lastRead t :: ds, u)

/-- `GETOUT` (R104): the two bytes of `OLEN`, then `OBUF[0..OLEN)`. -/
def getOut (s : State) : Option (List Byte × State) :=
  match readsFrom 0x0006 2 s with
  | none => none
  | some (ls, t) => readsFrom 0x8000 ((ls.getD 0 0).toNat + 256 * (ls.getD 1 0).toNat) t

end Sys2Proof.Machine
end

