-- ==== Sys2Proof/Machine/HostWrapper.lean ====
section
/-! DEFINITION. The host wrapper (`48_host_wrapper.md` R245 to R250): hex serialization, UTF-8, and the source's API on top
of the engine. It is software outside the hardware (`00_scope.md` R4). -/

namespace Sys2Proof.Machine

open Sys2Proof

/-- How a call of the wrapper fails. -/
inductive WrapperError where
  /-- The text is not one `HexEncode` can produce (R246). -/
  | invalidHex
  /-- The engine ended the command with this ERRCODE (R248, R249); or BufferOverflow, without a command, for a message
  longer than `ILEN` can say (R249, `93_implementation_defined.md` U17). -/
  | engine (code : Byte)
  /-- The recovered bytes are not UTF-8 text and `UTF8_ON_ERROR` gives no text for them (R250). -/
  | notText
  deriving DecidableEq, Repr

/-- The character of a hex digit 0..15, lowercase (R245). -/
def hexDigit (n : Nat) : Char := if n < 10 then Char.ofNat (48 + n) else Char.ofNat (87 + n)

/-- `HexEncode` (R245): two digits a byte, `byte div 16` first. -/
def hexEncode (bs : List Byte) : List Char := bs.flatMap fun b => [hexDigit (b.toNat / 16), hexDigit (b.toNat % 16)]

/-- The value of a character of `0-9a-f`; any other character is none (R246). -/
def hexValue (c : Char) : Option Nat :=
  if 48 ≤ c.toNat ∧ c.toNat ≤ 57 then some (c.toNat - 48)
  else if 97 ≤ c.toNat ∧ c.toNat ≤ 102 then some (c.toNat - 87)
  else none

/-- `HexDecode` (R246); `none` is InvalidHex. -/
def hexDecode : List Char → Option (List Byte)
  | [] => some []
  | [_] => none
  | h :: l :: rest =>
    match hexValue h, hexValue l, hexDecode rest with
    | some x, some y, some bs => some (BitVec.ofNat 8 (16 * x + y) :: bs)
    | _, _, _ => none

/-- The UTF-8 bytes of a text. -/
def utf8Bytes (t : String) : List Byte := t.toUTF8.data.toList.map UInt8.toBitVec

/-- The text of UTF-8 bytes; for bytes that are not UTF-8 the open parameter `UTF8_ON_ERROR` (R250). -/
def utf8Text (bs : List Byte) : Option String :=
  match String.fromUTF8? ⟨(bs.map UInt8.ofBitVec).toArray⟩ with
  | some t => some t
  | none => Config.utf8OnError bs

/-- Key input (R247): the key bytes, their count saturated at 255, and KEYLOAD. -/
def loadKey (key : String) (b : Bench) : Option Bench := runScript (keyStmts (utf8Bytes key) ++ runStmts .keyload) b

/-- The engine's part of a call (R248, R249): the message, the command, and the result or the error read back. -/
def callEngine (i : Instr) (m : List Byte) (b : Bench) : Option (Except WrapperError (List Byte) × Bench) :=
  match runScript (msgStmts m ++ runStmts i ++ [.rd 0x0001]) b with
  | none => none
  | some c =>
    if (lastRead c.state).getLsbD 2 then
      (runStmt (.rd 0x0002) c).map fun d => (.error (.engine (lastRead d.state)), d)
    else (getOut c.state).map fun r => (.ok r.1, { c with state := r.2 })

/-- The source's `encrypt(plaintext, cbcMode) -> hex` (R248). -/
def apiEncrypt (plaintext : String) (cbcMode : Bool) (b : Bench) : Option (Except WrapperError (List Char) × Bench) :=
  if 65535 < (utf8Bytes plaintext).length then some (.error (.engine ErrKind.bufferOverflow.code), b)
  else
    match callEngine (if cbcMode then .encCbc else .encEcb) (utf8Bytes plaintext) b with
    | none => none
    | some (.error e, c) => some (.error e, c)
    | some (.ok bs, c) => some (.ok (hexEncode bs), c)

/-- The source's `decrypt(ciphertext, cbcMode) -> plaintext` (R249). -/
def apiDecrypt (ciphertext : List Char) (cbcMode : Bool) (b : Bench) : Option (Except WrapperError String × Bench) :=
  match hexDecode ciphertext with
  | none => some (.error .invalidHex, b)
  | some c =>
    if 65535 < c.length then some (.error (.engine ErrKind.bufferOverflow.code), b)
    else
      match callEngine (if cbcMode then .decCbc else .decEcb) c b with
      | none => none
      | some (.error e, d) => some (.error e, d)
      | some (.ok bs, d) =>
        match utf8Text bs with
        | some t => some (.ok t, d)
        | none => some (.error .notText, d)

end Sys2Proof.Machine
end

