-- ==== Sys2Proof/Machine/Sequencer.lean ====
section
/-! DEFINITION. The sequencer: the decomposition of a command into micro-steps (`10_state.md` R40, R41; `43_key_schedule.md`
R156; `45_block_transform.md` R193; `47_mode_controller.md` R229). The machine's `step` runs the big-step rule, which is the
normative one; the micro-steps are the other model R41 admits, and their composition must equal the big-step rule. -/

namespace Sys2Proof.Machine

open Sys2Proof

/-- The fixed direction of a block transform (R193). -/
inductive Direction where
  | encrypt
  | decrypt
  deriving DecidableEq, Repr

/-- How the sequencer runs a command. -/
inductive SeqKind where
  | keySchedule
  | message (dir : Direction) (mode : Mode)
  | block (dir : Direction)
  | unitStep
  | padding
  | unpadding
  deriving DecidableEq, Repr

/-- The sequence of each command. -/
def seqKind (i : Instr) : SeqKind :=
  match i with
  | .keyload => .keySchedule
  | .encEcb => .message .encrypt .ecb
  | .encCbc => .message .encrypt .cbc
  | .decEcb => .message .decrypt .ecb
  | .decCbc => .message .decrypt .cbc
  | .blkenc => .block .encrypt
  | .blkdec => .block .decrypt
  | .subbytes => .unitStep
  | .invsubbytes => .unitStep
  | .shiftrows => .unitStep
  | .invshiftrows => .unitStep
  | .mixcolumns => .unitStep
  | .invmixcolumns => .unitStep
  | .mixcol => .unitStep
  | .invmixcol => .unitStep
  | .gfmul => .unitStep
  | .rotword => .unitStep
  | .subword => .unitStep
  | .pad => .padding
  | .unpad => .unpadding
  | .addroundkey _ => .unitStep

/-- What the datapath does to `S` in the UNIT phase of a unit command; nothing for the commands that have no such phase. -/
def unitEffect (i : Instr) (rk : Vector Block 11) (b : Block) : Block :=
  match i with
  | .keyload => b
  | .encEcb => b
  | .encCbc => b
  | .decEcb => b
  | .decCbc => b
  | .blkenc => b
  | .blkdec => b
  | .subbytes => subBytes b
  | .invsubbytes => invSubBytes b
  | .shiftrows => shiftRows b
  | .invshiftrows => invShiftRows b
  | .mixcolumns => mixColumns b
  | .invmixcolumns => invMixColumns b
  | .mixcol => onFirstColumn mixColumn b
  | .invmixcol => onFirstColumn invMixColumn b
  | .gfmul => gfmulBlock b
  | .rotword => onFirstColumn rotWord b
  | .subword => onFirstColumn subWord b
  | .pad => b
  | .unpad => b
  | .addroundkey k => addRoundKey b (roundKey rk k.toNat)

/-- What the CHECK phase of a unit command finds (R183, R264, R265): only ADDROUNDKEY checks anything. -/
def unitCheck (i : Instr) (s : State) : Option ErrKind :=
  if !i.wellFormed then some .illegalCommand
  else
    match i with
    | .addroundkey _ => if s.kvalid then none else some .keyNotLoaded
    | .keyload | .encEcb | .encCbc | .decEcb | .decCbc | .blkenc | .blkdec | .subbytes | .invsubbytes | .shiftrows
    | .invshiftrows | .mixcolumns | .invmixcolumns | .mixcol | .invmixcol | .gfmul | .rotword | .subword | .pad | .unpad => none

/-- Word `n` of the schedule where it is stored: `RK[n div 4][4(n mod 4) .. 4(n mod 4)+3]` (R156). -/
def scheduleWord (rk : Vector Block 11) (n : Nat) : Word := (roundKey rk (n / 4)).col (n % 4)

/-- The schedule with word `n` stored (R156). -/
def setScheduleWord (rk : Vector Block 11) (n : Nat) (w : Word) : Vector Block 11 :=
  rk.setIfInBounds (n / 4) ((roundKey rk (n / 4)).setCol (n % 4) w)

/-- How many data blocks a message command processes (R222, R223, R229). -/
def dataBlocks (dir : Direction) (mode : Mode) (s : State) : Nat :=
  match dir, mode with
  | .encrypt, .ecb => inputLength s / 16 + 1
  | .encrypt, .cbc => inputLength s / 16 + 1
  | .decrypt, .ecb => inputLength s / 16
  | .decrypt, .cbc => inputLength s / 16 - 1

/-- Block number `q + 1` of the input stream (R229 BLKLOAD; `20_memory.md` R68): the padded stream of an encryption is
generated on the fly; a CBC ciphertext begins after its IV. -/
def streamBlock (dir : Direction) (mode : Mode) (q : Nat) (s : State) : Block :=
  match dir, mode with
  | .encrypt, .ecb => blockAt (Machine.pad (inputBytes s)) (16 * q)
  | .encrypt, .cbc => blockAt (Machine.pad (inputBytes s)) (16 * q)
  | .decrypt, .ecb => blockAt (inputBytes s) (16 * q)
  | .decrypt, .cbc => blockAt (inputBytes s) (16 * (q + 1))

/-- One ROUND micro-step, a whole round, in either direction (R193). -/
def roundStep (dir : Direction) (rk : Vector Block 11) (rnd : Nat) (b : Block) : Block :=
  match dir with
  | .encrypt =>
    if rnd = 0 then addRoundKey b (roundKey rk 0)
    else if rnd < 10 then addRoundKey (mixColumns (shiftRows (subBytes b))) (roundKey rk rnd)
    else addRoundKey (shiftRows (subBytes b)) (roundKey rk 10)
  | .decrypt =>
    if rnd = 0 then invSubBytes (invShiftRows (addRoundKey b (roundKey rk 10)))
    else if rnd < 10 then invSubBytes (invShiftRows (invMixColumns (addRoundKey b (roundKey rk (10 - rnd)))))
    else addRoundKey b (roundKey rk 0)

/-- CHECK, KEYLOAD (R156). -/
def checkKeySchedule (s : State) : State :=
  if s.klen = 16 then { s with rk := s.rk.setIfInBounds 0 s.key, seq := .keyexp 4 }
  else raise .invalidKeyLength (dropSchedule s)

/-- CHECK: an error goes through error entry, which ends the command (log 10); otherwise the first phase of the command.
DESIGN CHOICE: for BLKENC and BLKDEC no rule gives the phases around ROUND or the value of `blk` in it: `KVALID` is
tested here, and ROUND is entered with `blk` = 0 (log 10). -/
def seqCheck (i : Instr) (s : State) : State :=
  match seqKind i with
  | .keySchedule => checkKeySchedule s
  | .message .encrypt mode =>
    match encryptCheck mode s with
    | some e => raise e s
    | none => { s with seq := .padgen }
  | .message .decrypt _ =>
    match decryptCheck s with
    | some e => raise e s
    | none => { s with seq := .ivgen }
  | .block _ => if s.kvalid then { s with seq := .round 0 0 } else raise .keyNotLoaded s
  | .unitStep =>
    match unitCheck i s with
    | some e => raise e s
    | none => { s with seq := .unit }
  | .padding =>
    if capacity s < paddedLength (inputLength s) then raise .bufferOverflow s else { s with seq := .padgen }
  | .unpadding =>
    if capacity s < inputLength s then raise .bufferOverflow s
    else if badCiphertextLength (inputLength s) then raise .invalidCiphertextLength s
    else { s with seq := .unpadchk }

/-- KEYEXP: word `n` by the loop body of R153 (R156). -/
def seqKeyexp (n : Nat) (s : State) : State :=
  { s with
    rk := setScheduleWord s.rk n (nextWord n (scheduleWord s.rk (n - 1)) (scheduleWord s.rk (n - 4)))
    seq := if n = 43 then .finish else .keyexp (n + 1) }

/-- PADGEN: an encryption only computes lengths (R229); PAD stores its padded stream here (log 10). -/
def seqPadgen (i : Instr) (s : State) : State :=
  match seqKind i with
  | .padding => { storeResult (Machine.pad (inputBytes s)) s with seq := .finish }
  | .keySchedule | .message _ _ | .block _ | .unitStep | .unpadding => { s with seq := .ivgen }

/-- IVGEN (R229). ENC.CBC waits here until its draw is answered (R280). -/
def seqIvgen (i : Instr) (s : State) : State :=
  match seqKind i with
  | .message .encrypt .cbc =>
    match s.rngResp with
    | none => s
    | some iv => { s with cv := iv, obuf := s.obuf.writeBytes 0 iv.toList, rngResp := none, seq := .blkload 0 }
  | .message .decrypt .cbc =>
    { s with
      cv := blockAt (inputBytes s) 0
      seq := if dataBlocks .decrypt .cbc s = 0 then .unpadchk else .blkload 0 }
  | .message _ .ecb | .keySchedule | .block _ | .unitStep | .padding | .unpadding =>
    { s with cv := Block.zero, seq := .blkload 0 }

/-- BLKLOAD (R229). -/
def seqBlkload (i : Instr) (q : Nat) (s : State) : State :=
  match seqKind i with
  | .message .encrypt mode => { s with sreg := chainIn mode s.cv (streamBlock .encrypt mode q s), seq := .round q 0 }
  | .message .decrypt mode => { s with sreg := streamBlock .decrypt mode q s, seq := .round q 0 }
  | .keySchedule | .block _ | .unitStep | .padding | .unpadding => { s with seq := .round q 0 }

/-- ROUND (R193): eleven micro-steps, then BLKSTORE in a message command (R229). DESIGN CHOICE: R193 says only "leave
ROUND" for BLKENC and BLKDEC; here they go on to FINISH, with `blk` unchanged until then (log 10). -/
def seqRound (i : Instr) (q r : Nat) (s : State) : State :=
  match seqKind i with
  | .message dir _ =>
    { s with sreg := roundStep dir s.rk r s.sreg, seq := if r < 10 then .round q (r + 1) else .blkstore q }
  | .block dir => { s with sreg := roundStep dir s.rk r s.sreg, seq := if r < 10 then .round q (r + 1) else .finish }
  | .keySchedule | .unitStep | .padding | .unpadding => { s with seq := .finish }

/-- BLKSTORE (R229). After the last block of an encryption `OLEN` is the length of the output stream (R221). -/
def seqBlkstore (i : Instr) (q : Nat) (s : State) : State :=
  match seqKind i with
  | .message .encrypt mode =>
    let prefixBytes := match mode with | .ecb => 0 | .cbc => 16
    let stored :=
      { s with cv := chainNext mode s.cv s.sreg, obuf := s.obuf.writeBytes (prefixBytes + 16 * q) s.sreg.toList }
    if q + 1 < dataBlocks .encrypt mode s then { stored with seq := .blkload (q + 1) }
    else { stored with olen := BitVec.ofNat 16 (prefixBytes + 16 * (q + 1)), seq := .finish }
  | .message .decrypt mode =>
    { s with
      sreg := chainIn mode s.cv s.sreg
      cv := chainNext mode s.cv (streamBlock .decrypt mode q s)
      obuf := s.obuf.writeBytes (16 * q) (chainIn mode s.cv s.sreg).toList
      seq := if q + 1 < dataBlocks .decrypt mode s then .blkload (q + 1) else .unpadchk }
  | .keySchedule | .block _ | .unitStep | .padding | .unpadding => { s with seq := .finish }

/-- UNPADCHK (R229): `unpad` on the output stream of a decryption; UNPAD applies it to its input here (log 10). -/
def seqUnpadchk (i : Instr) (s : State) : State :=
  match seqKind i with
  | .message .decrypt mode =>
    match Machine.unpad (obufBytes s 0 (16 * dataBlocks .decrypt mode s)) with
    | none => raise .invalidPadding s
    | some m =>
      { s with
        olen := BitVec.ofNat 16 m.length
        obuf := s.obuf.clearFrom m.length (16 * dataBlocks .decrypt mode s)
        seq := .finish }
  | .unpadding =>
    match Machine.unpad (inputBytes s) with
    | none => raise .invalidPadding s
    | some m => { storeResult m s with seq := .finish }
  | .message .encrypt _ | .keySchedule | .block _ | .unitStep | .padding => { s with seq := .finish }

/-- FINISH (R156, R229): the end of a command that succeeds. DESIGN CHOICE: that the block and unit commands, PAD and
UNPAD end in this phase (log 10). -/
def seqFinish (i : Instr) (s : State) : State :=
  match seqKind i with
  | .keySchedule => complete { s with kvalid := true }
  | .message _ _ => complete (clearWorking { s with obuf := s.obuf.clearFrom (outputLength s) (capacity s) })
  | .block _ | .unitStep | .padding | .unpadding => complete s

/-- One micro-step of command `i`. -/
def microStep (i : Instr) (s : State) : State :=
  match s.seq with
  | .idle => s
  | .check => seqCheck i s
  | .keyexp n => seqKeyexp n s
  | .padgen => seqPadgen i s
  | .ivgen => seqIvgen i s
  | .blkload q => seqBlkload i q s
  | .round q r => seqRound i q r s
  | .blkstore q => seqBlkstore i q s
  | .unpadchk => seqUnpadchk i s
  | .unit => { s with sreg := unitEffect i s.rk s.sreg, seq := .finish }
  | .finish => seqFinish i s

/-- One micro-step of the sequencer: the command is the one latched in `OPC` (R27); an idle sequencer stays idle. -/
def seqStep (s : State) : State :=
  if s.seq = .idle then s
  else
    match decode s.opc with
    | .ok i => microStep i s
    | .error _ => raise .illegalCommand s

/-- `n` micro-steps. -/
def seqRun : Nat → State → State
  | 0, s => s
  | n + 1, s => seqRun n (seqStep s)

end Sys2Proof.Machine
end

