-- ==== Sys2Proof/Safety.lean ====
section
/-! DEFINITION. What counts as a safe run, and the words the claims are stated in: the invariant of the machine, and what
one state keeps of another. -/

namespace Sys2Proof.Machine

open Sys2Proof

/-- The legal combinations of (BUSY, DONE, ERR) (`10_state.md` R32). -/
def LegalFlags (s : State) : Prop :=
  (s.busy, s.done, s.err) = (false, false, false) ∨ (s.busy, s.done, s.err) = (true, false, false) ∨
    (s.busy, s.done, s.err) = (false, true, false) ∨ (s.busy, s.done, s.err) = (false, true, true)

/-- `ERRCODE` is 0 when `ERR` = 0 and otherwise one of the codes 1..6 (R33). -/
def LegalErrcode (s : State) : Prop :=
  (s.err = false → s.errcode = 0) ∧ (s.err = true → 1 ≤ s.errcode.toNat ∧ s.errcode.toNat ≤ 6)

/-- A buffer is in its canonical form and lists only offsets that exist. -/
def BufferForm (m : Memory) (cap : Nat) : Prop := m.wf = true ∧ m.within cap = true

/-- OBUF and OLEN (R31): nothing has been written in OBUF since reset and `OLEN` is 0; or every byte of OBUF has been
written and those at and after `OLEN` are 0x00. -/
def OutputForm (s : State) : Prop :=
  (s.obuf = [] ∧ s.olen = 0) ∨
    ∀ j, j < capacity s → (s.obuf.read? j).isSome = true ∧ (outputLength s ≤ j → s.obuf.read? j = some 0x00)

/-- The invariant of the machine between steps. -/
structure Inv (s : State) : Prop where
  flags : LegalFlags s
  errcode : LegalErrcode s
  /-- "`SEQ.phase = IDLE` exactly when `BUSY = 0`" (R40); the phase after acceptance is CHECK (R94). -/
  sequencer : s.seq = if s.busy then Seq.check else Seq.idle
  /-- `CV` is `0^16` between commands (R26). -/
  chaining : s.cv = Block.zero
  input : BufferForm s.ibuf (capacity s)
  output : BufferForm s.obuf (capacity s)
  /-- `OLEN ≤ BUF_BYTES` (R31). -/
  outputLength : outputLength s ≤ capacity s
  outputBytes : OutputForm s
  /-- `KVALID` is 1 exactly when `RK` is the expansion of a key (R24), which is its round key 0 (R66); else `RK` is zero. -/
  schedule : s.rk = if s.kvalid then expand (roundKey s.rk 0) else zeroSchedule
  /-- A random answer is held only by an ENC.CBC that is running and has passed its checks (R220, R224). -/
  draw : s.rngResp ≠ none → s.busy = true ∧ s.opc = encode .encCbc ∧ encryptCheck .cbc s = none

/-- The next step is the engine's turn, and `rest` are the events left after it: nothing is to come, or the turn is the
next event (log 5). -/
def TurnIsNext (s : State) (rest : List Event) : Prop :=
  (s.inbox = [] ∧ rest = []) ∨ s.inbox = .engine :: rest

/-- `t` keeps what the host wrote: KEY, KLEN, ILEN and every byte of IBUF. -/
def KeepsInputs (s t : State) : Prop :=
  t.key = s.key ∧ t.klen = s.klen ∧ t.ilen = s.ilen ∧ ∀ a, ibufByte t a = ibufByte s a

/-- `t` keeps RK and KVALID. -/
def KeepsSchedule (s t : State) : Prop := t.rk = s.rk ∧ t.kvalid = s.kvalid

/-- `t` keeps OLEN and every byte of OBUF. -/
def KeepsOutputs (s t : State) : Prop := t.olen = s.olen ∧ ∀ a, obufByte t a = obufByte s a

/-- `t` keeps OPC, the parameter of the machine and what stands at its ports, less the random answer. -/
def KeepsPorts (s t : State) : Prop :=
  t.opc = s.opc ∧ t.cfg = s.cfg ∧ t.inbox = s.inbox ∧ t.reads = s.reads ∧ t.epoch = s.epoch ∧ t.draws = s.draws

/-- `t` is `s` with its command completed without error: BUSY 0, DONE 1, idle; ERR and ERRCODE as acceptance left them
(R94). -/
def Succeeded (s t : State) : Prop :=
  t.busy = false ∧ t.done = true ∧ t.err = s.err ∧ t.errcode = s.errcode ∧ t.seq = .idle

/-- `t` is `s` with its command ended by error `e` (`60_exceptions.md` R270), less what happens to RK and KVALID. -/
def EndedInError (e : ErrKind) (s t : State) : Prop :=
  t.errcode = e.code ∧ t.err = true ∧ t.olen = 0 ∧ (∀ j, j < capacity s → obufByte t j = 0x00) ∧
    t.sreg = Block.zero ∧ t.cv = Block.zero ∧ t.busy = false ∧ t.done = true ∧ t.seq = .idle ∧
    KeepsInputs s t ∧ KeepsPorts s t ∧ t.rngResp = s.rngResp

/-- Command `i` can end in the error of code `c`: it does from some accepted state. -/
def CanRaise (i : Instr) (c : Byte) : Prop :=
  ∃ s t, s.err = false ∧ exec i s = .next t ∧ t.err = true ∧ t.errcode = c

/-- A command that works on `S` only, completed: everything but `S`, BUSY, DONE and the sequencer is kept. -/
def OnlyBlockRegister (s t : State) : Prop :=
  Succeeded s t ∧ KeepsInputs s t ∧ KeepsSchedule s t ∧ KeepsOutputs s t ∧ KeepsPorts s t ∧ t.cv = s.cv ∧
    t.rngResp = s.rngResp

/-- A command that writes OBUF and OLEN only, completed with the result `v`: OBUF holds `v` and 0x00 after it. -/
def OutputIs (v : List Byte) (s t : State) : Prop :=
  outputLength t = v.length ∧ (∀ j, j < v.length → obufByte t j = v.getD j 0) ∧
    ∀ j, v.length ≤ j → j < capacity s → obufByte t j = 0x00

/-- A message command completed with the result `v` (`47_mode_controller.md` R221): `S` and `CV` are `0^16`. -/
def MessageDone (v : List Byte) (s t : State) : Prop :=
  OutputIs v s t ∧ t.sreg = Block.zero ∧ t.cv = Block.zero ∧ Succeeded s t ∧ KeepsInputs s t ∧ KeepsSchedule s t ∧
    KeepsPorts s t

end Sys2Proof.Machine
end

