-- ==== Sys2Proof/Certificates/Slice0/Obligations.lean ====
section
/-! DEFINITION. The statements for the provers. `s` is a state in which the command has been accepted, `t` the state its
completion step leaves (`30_encoding.md` R94). The frames also keep the model's own fields (log 8), which no rule of the
spec speaks of. -/

open Sys2Proof Sys2Proof.Machine

/-! ## Encoding -/

/-- R100: one command byte of each format, written out bit by bit from the table, and the command it stands for. -/
def Obligations.CommandBytesDecodeAsTable : Prop :=
  decode 0b00000001 = .ok .keyload ∧ decode 0b00010010 = .ok .decEcb ∧ decode 0b00010001 = .ok .encCbc ∧
  decode 0b00100001 = .ok .blkdec ∧ decode 0b00110101 = .ok .invmixcolumns ∧ decode 0b01000010 = .ok .gfmul ∧
  decode 0b01010001 = .ok .unpad ∧ decode 0b01100000 = .ok (.addroundkey 0) ∧
  decode 0b01101010 = .ok (.addroundkey 10)

/-- R92, R93, R100: decoding the byte of a command gives the command back, and a byte that decodes to a command is its
byte; no other term of `Instr` is ever decoded. -/
def Obligations.DecodeEncodeAgree : Prop :=
  (∀ i : Instr, i.wellFormed = true → decode (encode i) = .ok i) ∧
  (∀ (b : Byte) (i : Instr), decode b = .ok i → i.wellFormed = true ∧ encode i = b) ∧
  (∀ i j : Instr, i.wellFormed = true → j.wellFormed = true → encode i = encode j → i = j)

/-- R101: the reserved encodings are exactly the bytes outside the table. -/
def Obligations.ReservedEncodings : Prop :=
  ∀ b : Byte, (∃ e, decode b = .error e) ↔
    (b.toNat = 0x00 ∨ (0x02 ≤ b.toNat ∧ b.toNat ≤ 0x0F) ∨ (0x14 ≤ b.toNat ∧ b.toNat ≤ 0x1F) ∨
      (0x22 ≤ b.toNat ∧ b.toNat ≤ 0x2F) ∨ (0x36 ≤ b.toNat ∧ b.toNat ≤ 0x3F) ∨
      (0x45 ≤ b.toNat ∧ b.toNat ≤ 0x4F) ∨ (0x52 ≤ b.toNat ∧ b.toNat ≤ 0x5F) ∨
      (0x6B ≤ b.toNat ∧ b.toNat ≤ 0x6F) ∨ 0x70 ≤ b.toNat)

/-! ## The step -/

/-- A step in which the engine has its turn runs the command in OPC: with no event to come the step is `exec` of that
command at that state, and when the next event is the engine's turn it is `exec` at the state without that event. The
inbox is the model's choice (log 5). -/
def Obligations.StepRunsDecodedCommand : Prop :=
  ∀ (s : State) (i : Instr), s.busy = true → decode s.opc = .ok i →
    (s.inbox = [] → step s = exec i s) ∧
    (∀ rest, s.inbox = .engine :: rest → step s = exec i { s with inbox := rest })

/-- The step after a command byte has been placed runs that command, on the state as acceptance leaves it (R94). How a
byte is placed is the model's choice (log 9). -/
def Obligations.PlacedWordRunsNext : Prop :=
  ∀ (s : State) (nbits w : Nat) (i : Instr), decodeTableWord nbits w = some i →
    step (s.withFetchWord nbits w) =
      exec i { s with
        opc := BitVec.ofNat 8 (w % 2 ^ nbits), busy := true, done := false, err := false, errcode := 0, seq := .check }

/-- R94: a write to CMD of an idle engine latches the byte, sets BUSY, clears DONE, ERR and ERRCODE and enters CHECK,
and changes nothing else, whatever the byte. The inbox is the model's choice (log 5). -/
def Obligations.AcceptanceOfCommand : Prop :=
  ∀ (s : State) (d : Byte) (rest : List Event), s.busy = false → s.inbox = .write 0x0000 d :: rest →
    step s = .next { s with
      inbox := rest, opc := d, busy := true, done := false, err := false, errcode := 0, seq := .check }

/-- R265, R270: the completion step of a reserved encoding, at an engine's turn of either kind (log 5), is error entry
with IllegalCommand; RK and KVALID are kept.
The terms ADDROUNDKEY 11..15, which no byte decodes to, end so too: that clause is the model's choice (log 11). -/
def Obligations.ReservedByteEndsIllegalCommand : Prop :=
  (∀ (s : State) (rest : List Event) (e : Reserved), s.busy = true → TurnIsNext s rest → decode s.opc = .error e →
    ∃ t, step s = .next t ∧ EndedInError .illegalCommand { s with inbox := rest } t ∧ KeepsSchedule s t) ∧
  (∀ (s : State) (k : BitVec 4), 10 < k.toNat →
    ∃ t, exec (.addroundkey k) s = .next t ∧ EndedInError .illegalCommand s t ∧ KeepsSchedule s t)

/-- No step faults and none is refused: "every host transaction in every state has a rule" (`93_implementation_defined.md`
Part 1), an error is a next state (R270), and reserved addresses raise none (R64). That the turn of an ENC.CBC whose draw
is not answered is a next state too, the same one but for the event used, is the model's choice (log 4): R301 says
"stuck (no step)" there. -/
def Obligations.StepAlwaysAnswersNext : Prop :=
  (∀ s : State, ∃ t, step s = .next t) ∧
  (∀ (s : State) (rest : List Event), s.busy = true → s.opc = 0x11 → encryptCheck .cbc s = none → s.rngResp = none →
    TurnIsNext s rest → step s = .next { s with inbox := rest })

/-- R72 (c): an idle engine with nothing arriving changes nothing, at an engine's turn of either kind (log 5). -/
def Obligations.IdleEngineIsQuiet : Prop :=
  ∀ (s : State) (rest : List Event), s.busy = false → TurnIsNext s rest → step s = .next { s with inbox := rest }

/-! ## Host port -/

/-- R32: STATUS reads BUSY, DONE, ERR, KVALID in bits 0 to 3 and 0 in bits 7:4. -/
def Obligations.StatusRegisterBits : Prop :=
  ∀ s : State,
    (statusByte s).getLsbD 0 = s.busy ∧ (statusByte s).getLsbD 1 = s.done ∧ (statusByte s).getLsbD 2 = s.err ∧
    (statusByte s).getLsbD 3 = s.kvalid ∧ (statusByte s).extractLsb' 4 4 = 0

/-- R61, R62, R64: what a host read of an idle engine returns at every address, and that it changes no state of the
engine. `v` is the byte returned. The record `reads` and the value of a buffer byte that nothing has written are the
model's choice (log 6, log 2). -/
def Obligations.IdleHostRead : Prop :=
  ∀ (s : State) (a : BitVec 16) (rest : List Event), s.busy = false → s.inbox = .read a :: rest →
    ∃ v : Byte, step s = .next { s with inbox := rest, reads := (a, v) :: s.reads } ∧
      (a.toNat = 0x0000 → v = 0x00) ∧
      (a.toNat = 0x0001 → v = statusByte s) ∧
      (a.toNat = 0x0002 → v = s.errcode) ∧
      (a.toNat = 0x0003 → v = s.klen) ∧
      (a.toNat = 0x0004 → v.toNat = s.ilen.toNat % 256) ∧
      (a.toNat = 0x0005 → v.toNat = s.ilen.toNat / 256) ∧
      (a.toNat = 0x0006 → v.toNat = s.olen.toNat % 256) ∧
      (a.toNat = 0x0007 → v.toNat = s.olen.toNat / 256) ∧
      (0x0008 ≤ a.toNat ∧ a.toNat ≤ 0x001F → v = 0x00) ∧
      (∀ i, i < 16 → a.toNat = 0x0020 + i → v = s.sreg.get i) ∧
      (0x0030 ≤ a.toNat ∧ a.toNat ≤ 0x3FFF → v = 0x00) ∧
      (∀ j, j < capacity s → a.toNat = 0x4000 + j → v = ibufByte s j) ∧
      (0x4000 + capacity s ≤ a.toNat ∧ a.toNat ≤ 0x7FFF → v = 0x00) ∧
      (∀ j, j < capacity s → a.toNat = 0x8000 + j → v = obufByte s j) ∧
      (0x8000 + capacity s ≤ a.toNat → v = 0x00)

/-- R62: while BUSY = 1 a read of STATUS returns STATUS, a read of any other address returns a byte the model leaves
free, and neither changes any state of the engine. The counter of free bytes and the record `reads` are the model's
choice (log 3, log 6). -/
def Obligations.BusyHostRead : Prop :=
  ∀ (s : State) (a : BitVec 16) (rest : List Event), s.busy = true → s.inbox = .read a :: rest →
    (a = 0x0001 → step s = .next { s with inbox := rest, reads := (a, statusByte s) :: s.reads }) ∧
    (a ≠ 0x0001 → ∃ v : Byte,
      step s = .next { s with inbox := rest, reads := (a, v) :: s.reads, draws := s.draws + 1 })

/-- R63, R64: what a host write to an idle engine does at every address but CMD. -/
def Obligations.IdleHostWrite : Prop :=
  ∀ (s : State) (a : BitVec 16) (d : Byte) (rest : List Event), s.busy = false → s.inbox = .write a d :: rest →
    (0x0001 ≤ a.toNat ∧ a.toNat ≤ 0x0002 → step s = .next { s with inbox := rest }) ∧
    (a.toNat = 0x0003 → step s = .next { s with inbox := rest, klen := d }) ∧
    (a.toNat = 0x0004 → ∃ n, step s = .next { s with inbox := rest, ilen := n } ∧
      n.toNat = 256 * (s.ilen.toNat / 256) + d.toNat) ∧
    (a.toNat = 0x0005 → ∃ n, step s = .next { s with inbox := rest, ilen := n } ∧
      n.toNat = 256 * d.toNat + s.ilen.toNat % 256) ∧
    (0x0006 ≤ a.toNat ∧ a.toNat ≤ 0x000F → step s = .next { s with inbox := rest }) ∧
    (∀ i, i < 16 → a.toNat = 0x0010 + i → ∃ b, step s = .next { s with inbox := rest, key := b } ∧
      b.get i = d ∧ ∀ k, k < 16 → k ≠ i → b.get k = s.key.get k) ∧
    (∀ i, i < 16 → a.toNat = 0x0020 + i → ∃ b, step s = .next { s with inbox := rest, sreg := b } ∧
      b.get i = d ∧ ∀ k, k < 16 → k ≠ i → b.get k = s.sreg.get k) ∧
    (0x0030 ≤ a.toNat ∧ a.toNat ≤ 0x3FFF → step s = .next { s with inbox := rest }) ∧
    (∀ j, j < capacity s → a.toNat = 0x4000 + j → ∃ m, step s = .next { s with inbox := rest, ibuf := m } ∧
      m.read? j = some d ∧ ∀ k, k ≠ j → m.read? k = s.ibuf.read? k) ∧
    (0x4000 + capacity s ≤ a.toNat → step s = .next { s with inbox := rest })

/-- R63: while BUSY = 1 a host write has no effect at all, whatever the address, CMD included. -/
def Obligations.BusyHostWriteDropped : Prop :=
  ∀ (s : State) (a : BitVec 16) (d : Byte) (rest : List Event), s.busy = true → s.inbox = .write a d :: rest →
    step s = .next { s with inbox := rest }

/-- R61, R63: after a host write at an RW address the same address reads the byte written, and every other address reads
as before the write; so does every other address after a write at an address that is not CMD. -/
def Obligations.ReadAfterHostWrite : Prop :=
  ∀ (s : State) (a b : BitVec 16) (d : Byte), s.busy = false → a ≠ 0x0000 →
    ((a = 0x0003 ∨ a = 0x0004 ∨ a = 0x0005 ∨ (0x0020 ≤ a.toNat ∧ a.toNat ≤ 0x002F) ∨
        (0x4000 ≤ a.toNat ∧ a.toNat < 0x4000 + capacity s)) →
      regionRead (hostWrite a d s) (regionOf (capacity s) a) = d) ∧
    (b ≠ a → regionRead (hostWrite a d s) (regionOf (capacity s) b) = regionRead s (regionOf (capacity s) b))

/-- R290, R291, R45: Reset, at any time, also while BUSY = 1, gives every register the value of R45, whatever the
state was; nothing is written in the buffers, and BUF_BYTES is untouched. The unlisted buffers and what is kept of the
model's own fields are its choice (log 2, log 8). -/
def Obligations.ResetState : Prop :=
  ∀ (s : State) (rest : List Event), s.inbox = .reset :: rest →
    ∃ t, step s = .next t ∧ t.key = Block.zero ∧ t.klen = 0 ∧ (∀ k, k ≤ 10 → roundKey t.rk k = Block.zero) ∧
      t.kvalid = false ∧ t.sreg = Block.zero ∧ t.cv = Block.zero ∧ t.ilen = 0 ∧ t.olen = 0 ∧ t.busy = false ∧
      t.done = false ∧ t.err = false ∧ t.errcode = 0 ∧ t.opc = 0 ∧ t.seq = .idle ∧ t.rngResp = none ∧
      (∀ j, t.ibuf.read? j = none) ∧ (∀ j, t.obuf.read? j = none) ∧ t.cfg = s.cfg ∧ t.inbox = rest ∧
      statusByte t = 0x00

/-- R224, R290: an answer at the random port is taken when, and only when, an ENC.CBC is running whose checks have
passed and that has no answer yet; otherwise it is ignored, as an answer that arrives after a reset is while no new
request is outstanding. The field that holds the answer, and that an answer names no request, are the model's choice
(log 4). -/
def Obligations.RandomAnswerTakenOrIgnored : Prop :=
  ∀ (s : State) (iv : Block) (rest : List Event), s.inbox = .rngAnswer iv :: rest →
    ((s.busy = true ∧ s.opc = 0x11 ∧ encryptCheck .cbc s = none ∧ s.rngResp = none) →
      step s = .next { s with inbox := rest, rngResp := some iv }) ∧
    (¬ (s.busy = true ∧ s.opc = 0x11 ∧ encryptCheck .cbc s = none ∧ s.rngResp = none) →
      step s = .next { s with inbox := rest })

/-! ## The commands: results, frames and completion -/

/-- R155, R153, R66: KEYLOAD with KLEN = 16 completes with KVALID = 1 and `RK` the expansion of KEY, stated by the
recurrence of R153 on the words as they stand in RK; with KLEN ≠ 16 it clears KVALID and RK and ends in
InvalidKeyLength. -/
def Obligations.KeyloadCommand : Prop :=
  decode 0x01 = .ok .keyload ∧ ∀ s : State,
    (s.klen = 16 → ∃ t, exec .keyload s = .next t ∧ t.kvalid = true ∧
      (∀ j, j < 4 → scheduleWord t.rk j = s.key.col j) ∧
      (∀ i, 4 ≤ i → i < 44 → scheduleWord t.rk i = (scheduleWord t.rk (i - 4)).xor
        (if i % 4 = 0 then (subWord (rotWord (scheduleWord t.rk (i - 1)))).xor ⟨rcon (i / 4), 0, 0, 0⟩
          else scheduleWord t.rk (i - 1))) ∧
      Succeeded s t ∧ KeepsInputs s t ∧ KeepsOutputs s t ∧ KeepsPorts s t ∧ t.sreg = s.sreg ∧ t.cv = s.cv ∧
      t.rngResp = s.rngResp) ∧
    (s.klen ≠ 16 → ∃ t, exec .keyload s = .next t ∧ EndedInError .invalidKeyLength s t ∧ t.kvalid = false ∧
      ∀ k, k ≤ 10 → roundKey t.rk k = Block.zero)

/-- R177, R178 (R170, R171): SUBBYTES and INVSUBBYTES. -/
def Obligations.SubBytesCommands : Prop :=
  decode 0x30 = .ok .subbytes ∧ decode 0x31 = .ok .invsubbytes ∧ ∀ s : State,
    (∃ t, exec .subbytes s = .next t ∧ (∀ i, i < 16 → t.sreg.get i = sbox (s.sreg.get i)) ∧
      OnlyBlockRegister s t) ∧
    (∃ t, exec .invsubbytes s = .next t ∧ (∀ i, i < 16 → t.sreg.get i = invSbox (s.sreg.get i)) ∧
      OnlyBlockRegister s t)

/-- R179, R180 (R172, R173): SHIFTROWS moves row r left by r, INVSHIFTROWS right by r. -/
def Obligations.ShiftRowsCommands : Prop :=
  decode 0x32 = .ok .shiftrows ∧ decode 0x33 = .ok .invshiftrows ∧ ∀ s : State,
    (∃ t, exec .shiftrows s = .next t ∧
      (∀ r c, r < 4 → c < 4 → t.sreg.at r c = s.sreg.at r ((c + r) % 4)) ∧ OnlyBlockRegister s t) ∧
    (∃ t, exec .invshiftrows s = .next t ∧
      (∀ r c, r < 4 → c < 4 → t.sreg.at r c = s.sreg.at r ((c + 4 - r) % 4)) ∧ OnlyBlockRegister s t)

/-- R181, R182 (R174, R175): MIXCOLUMNS and INVMIXCOLUMNS transform each column independently. -/
def Obligations.MixColumnsCommands : Prop :=
  decode 0x34 = .ok .mixcolumns ∧ decode 0x35 = .ok .invmixcolumns ∧ ∀ s : State,
    (∃ t, exec .mixcolumns s = .next t ∧ (∀ c, c < 4 → t.sreg.col c = mixColumn (s.sreg.col c)) ∧
      OnlyBlockRegister s t) ∧
    (∃ t, exec .invmixcolumns s = .next t ∧ (∀ c, c < 4 → t.sreg.col c = invMixColumn (s.sreg.col c)) ∧
      OnlyBlockRegister s t)

/-- R183 (R176): the byte 0x60 + k is ADDROUNDKEY k for k = 0..10; with a key loaded it XORs RK[k] into S byte for byte,
without one it ends in KeyNotLoaded. -/
def Obligations.AddRoundKeyCommand : Prop :=
  ∀ k : BitVec 4, k.toNat ≤ 10 → decode (BitVec.ofNat 8 (0x60 + k.toNat)) = .ok (.addroundkey k) ∧ ∀ s : State,
    (s.kvalid = true → ∃ t, exec (.addroundkey k) s = .next t ∧
      (∀ i, i < 16 → t.sreg.get i = s.sreg.get i ^^^ (roundKey s.rk k.toNat).get i) ∧ OnlyBlockRegister s t) ∧
    (s.kvalid = false → ∃ t, exec (.addroundkey k) s = .next t ∧ EndedInError .keyNotLoaded s t ∧ KeepsSchedule s t)

/-- R133, R134 (R130, R131): MIXCOL and INVMIXCOL transform column 0 of S by the matrices of R130 and R131, from the four
input bytes, and keep the other twelve bytes. -/
def Obligations.ColumnMixerCommands : Prop :=
  decode 0x40 = .ok .mixcol ∧ decode 0x41 = .ok .invmixcol ∧ ∀ s : State,
    (∃ t, exec .mixcol s = .next t ∧
      t.sreg.get 0 = multiply 2 (s.sreg.get 0) ^^^ multiply 3 (s.sreg.get 1) ^^^ multiply 1 (s.sreg.get 2) ^^^
        multiply 1 (s.sreg.get 3) ∧
      t.sreg.get 1 = multiply 1 (s.sreg.get 0) ^^^ multiply 2 (s.sreg.get 1) ^^^ multiply 3 (s.sreg.get 2) ^^^
        multiply 1 (s.sreg.get 3) ∧
      t.sreg.get 2 = multiply 1 (s.sreg.get 0) ^^^ multiply 1 (s.sreg.get 1) ^^^ multiply 2 (s.sreg.get 2) ^^^
        multiply 3 (s.sreg.get 3) ∧
      t.sreg.get 3 = multiply 3 (s.sreg.get 0) ^^^ multiply 1 (s.sreg.get 1) ^^^ multiply 1 (s.sreg.get 2) ^^^
        multiply 2 (s.sreg.get 3) ∧
      (∀ i, 4 ≤ i → i < 16 → t.sreg.get i = s.sreg.get i) ∧ OnlyBlockRegister s t) ∧
    (∃ t, exec .invmixcol s = .next t ∧
      t.sreg.get 0 = multiply 14 (s.sreg.get 0) ^^^ multiply 11 (s.sreg.get 1) ^^^ multiply 13 (s.sreg.get 2) ^^^
        multiply 9 (s.sreg.get 3) ∧
      t.sreg.get 1 = multiply 9 (s.sreg.get 0) ^^^ multiply 14 (s.sreg.get 1) ^^^ multiply 11 (s.sreg.get 2) ^^^
        multiply 13 (s.sreg.get 3) ∧
      t.sreg.get 2 = multiply 13 (s.sreg.get 0) ^^^ multiply 9 (s.sreg.get 1) ^^^ multiply 14 (s.sreg.get 2) ^^^
        multiply 11 (s.sreg.get 3) ∧
      t.sreg.get 3 = multiply 11 (s.sreg.get 0) ^^^ multiply 13 (s.sreg.get 1) ^^^ multiply 9 (s.sreg.get 2) ^^^
        multiply 14 (s.sreg.get 3) ∧
      (∀ i, 4 ≤ i → i < 16 → t.sreg.get i = s.sreg.get i) ∧ OnlyBlockRegister s t)

/-- R123: GFMUL writes S[2] with the product of S[0] and S[1] and keeps the other fifteen bytes. -/
def Obligations.GfmulCommand : Prop :=
  decode 0x42 = .ok .gfmul ∧ ∀ s : State, ∃ t, exec .gfmul s = .next t ∧ t.sreg.get 2 = multiply (s.sreg.get 0) (s.sreg.get 1) ∧
    (∀ i, i < 16 → i ≠ 2 → t.sreg.get i = s.sreg.get i) ∧ OnlyBlockRegister s t

/-- R157, R158 (R151, R152): ROTWORD and SUBWORD on S[0..3]; the other twelve bytes are kept. -/
def Obligations.WordCommands : Prop :=
  decode 0x43 = .ok .rotword ∧ decode 0x44 = .ok .subword ∧ ∀ s : State,
    (∃ t, exec .rotword s = .next t ∧ t.sreg.get 0 = s.sreg.get 1 ∧ t.sreg.get 1 = s.sreg.get 2 ∧
      t.sreg.get 2 = s.sreg.get 3 ∧ t.sreg.get 3 = s.sreg.get 0 ∧
      (∀ i, 4 ≤ i → i < 16 → t.sreg.get i = s.sreg.get i) ∧ OnlyBlockRegister s t) ∧
    (∃ t, exec .subword s = .next t ∧ (∀ i, i < 4 → t.sreg.get i = sbox (s.sreg.get i)) ∧
      (∀ i, 4 ≤ i → i < 16 → t.sreg.get i = s.sreg.get i) ∧ OnlyBlockRegister s t)

/-- R194, R195 (R190, R191): BLKENC and BLKDEC with a key loaded, and KeyNotLoaded without one. -/
def Obligations.BlockTransformCommands : Prop :=
  decode 0x20 = .ok .blkenc ∧ decode 0x21 = .ok .blkdec ∧ ∀ s : State,
    (s.kvalid = true →
      (∃ t, exec .blkenc s = .next t ∧ t.sreg = cipher s.sreg s.rk ∧ OnlyBlockRegister s t) ∧
      (∃ t, exec .blkdec s = .next t ∧ t.sreg = invCipher s.sreg s.rk ∧ OnlyBlockRegister s t)) ∧
    (s.kvalid = false →
      (∃ t, exec .blkenc s = .next t ∧ EndedInError .keyNotLoaded s t ∧ KeepsSchedule s t) ∧
      (∃ t, exec .blkdec s = .next t ∧ EndedInError .keyNotLoaded s t ∧ KeepsSchedule s t))

/-- R208 (R205): PAD. With room for the padded message it completes with `OLEN = 16 * (n div 16 + 1)`, OBUF holding the
message, the pad bytes and 0x00 after them; without room it ends in BufferOverflow. -/
def Obligations.PadCommand : Prop :=
  decode 0x50 = .ok .pad ∧ ∀ s : State,
    (16 * (inputLength s / 16 + 1) ≤ capacity s → ∃ t, exec .pad s = .next t ∧
      outputLength t = 16 * (inputLength s / 16 + 1) ∧
      (∀ j, j < inputLength s → obufByte t j = ibufByte s j) ∧
      (∀ j, inputLength s ≤ j → j < outputLength t → (obufByte t j).toNat = 16 - inputLength s % 16) ∧
      (∀ j, outputLength t ≤ j → j < capacity s → obufByte t j = 0x00) ∧
      Succeeded s t ∧ KeepsInputs s t ∧ KeepsSchedule s t ∧ KeepsPorts s t ∧ t.sreg = s.sreg ∧ t.cv = s.cv ∧
      t.rngResp = s.rngResp) ∧
    (capacity s < 16 * (inputLength s / 16 + 1) → ∃ t, exec .pad s = .next t ∧
      EndedInError .bufferOverflow s t ∧ KeepsSchedule s t)

/-- R209 (R206): UNPAD, with `n = ILEN` and `p` the last byte of the input: the three errors in their order, and the
result when there is none. -/
def Obligations.UnpadCommand : Prop :=
  decode 0x51 = .ok .unpad ∧ ∀ s : State,
    (capacity s < inputLength s → ∃ t, exec .unpad s = .next t ∧
      EndedInError .bufferOverflow s t ∧ KeepsSchedule s t) ∧
    (inputLength s ≤ capacity s → (inputLength s = 0 ∨ inputLength s % 16 ≠ 0) →
      ∃ t, exec .unpad s = .next t ∧ EndedInError .invalidCiphertextLength s t ∧ KeepsSchedule s t) ∧
    (∀ p, inputLength s ≤ capacity s → inputLength s ≠ 0 → inputLength s % 16 = 0 →
      p = (ibufByte s (inputLength s - 1)).toNat →
      ((1 ≤ p ∧ p ≤ 16 ∧ ∀ j, j < p → (ibufByte s (inputLength s - 1 - j)).toNat = p) →
        ∃ t, exec .unpad s = .next t ∧ outputLength t = inputLength s - p ∧
          (∀ j, j < inputLength s - p → obufByte t j = ibufByte s j) ∧
          (∀ j, inputLength s - p ≤ j → j < capacity s → obufByte t j = 0x00) ∧
          Succeeded s t ∧ KeepsInputs s t ∧ KeepsSchedule s t ∧ KeepsPorts s t ∧ t.sreg = s.sreg ∧ t.cv = s.cv ∧
          t.rngResp = s.rngResp) ∧
      (¬ (1 ≤ p ∧ p ≤ 16 ∧ ∀ j, j < p → (ibufByte s (inputLength s - 1 - j)).toNat = p) →
        ∃ t, exec .unpad s = .next t ∧ EndedInError .invalidPadding s t ∧ KeepsSchedule s t))

/-- R225, R226, R221: the encryption commands when the checks of R220 pass and, for ENC.CBC, the draw has been
answered: OBUF holds the encrypted message, after the IV in CBC, and the draw is used up. The field that holds the
answer is the model's choice (log 4). -/
def Obligations.EncryptCommands : Prop :=
  decode 0x10 = .ok .encEcb ∧ decode 0x11 = .ok .encCbc ∧ ∀ s : State, s.kvalid = true →
    (16 * (inputLength s / 16 + 1) ≤ capacity s → ∃ t, exec .encEcb s = .next t ∧
      MessageDone (encryptMessage (inputBytes s) s.rk .ecb Block.zero) s t ∧ t.rngResp = s.rngResp) ∧
    (∀ iv, 16 * (inputLength s / 16 + 1) + 16 ≤ capacity s → s.rngResp = some iv →
      ∃ t, exec .encCbc s = .next t ∧ MessageDone (encryptMessage (inputBytes s) s.rk .cbc iv) s t ∧
        outputLength t = 16 * (inputLength s / 16 + 1) + 16 ∧ (∀ j, j < 16 → obufByte t j = iv.get j) ∧
        t.rngResp = none)

/-- R227, R228, R221: the decryption commands when the checks of R220 pass: the unpadded message, or InvalidPadding. -/
def Obligations.DecryptCommands : Prop :=
  decode 0x12 = .ok .decEcb ∧ decode 0x13 = .ok .decCbc ∧ ∀ s : State, s.kvalid = true → inputLength s ≤ capacity s → inputLength s ≠ 0 → inputLength s % 16 = 0 →
    (∀ m, decryptMessage (inputBytes s) s.rk .ecb = some m →
      ∃ t, exec .decEcb s = .next t ∧ MessageDone m s t ∧ t.rngResp = s.rngResp) ∧
    (decryptMessage (inputBytes s) s.rk .ecb = none →
      ∃ t, exec .decEcb s = .next t ∧ EndedInError .invalidPadding s t ∧ KeepsSchedule s t) ∧
    (∀ m, decryptMessage (inputBytes s) s.rk .cbc = some m →
      ∃ t, exec .decCbc s = .next t ∧ MessageDone m s t ∧ t.rngResp = s.rngResp) ∧
    (decryptMessage (inputBytes s) s.rk .cbc = none →
      ∃ t, exec .decCbc s = .next t ∧ EndedInError .invalidPadding s t ∧ KeepsSchedule s t)

/-- R220, R268: the checks of the message commands, in their order: KeyNotLoaded, then BufferOverflow, then, for the
decryptions, InvalidCiphertextLength. -/
def Obligations.MessageCommandChecks : Prop :=
  ∀ s : State,
    (s.kvalid = false → ∀ i, i = .encEcb ∨ i = .encCbc ∨ i = .decEcb ∨ i = .decCbc →
      ∃ t, exec i s = .next t ∧ EndedInError .keyNotLoaded s t ∧ KeepsSchedule s t) ∧
    (s.kvalid = true → capacity s < 16 * (inputLength s / 16 + 1) →
      ∃ t, exec .encEcb s = .next t ∧ EndedInError .bufferOverflow s t ∧ KeepsSchedule s t) ∧
    (s.kvalid = true → capacity s < 16 * (inputLength s / 16 + 1) + 16 →
      ∃ t, exec .encCbc s = .next t ∧ EndedInError .bufferOverflow s t ∧ KeepsSchedule s t) ∧
    (s.kvalid = true → capacity s < inputLength s → ∀ i, i = .decEcb ∨ i = .decCbc →
      ∃ t, exec i s = .next t ∧ EndedInError .bufferOverflow s t ∧ KeepsSchedule s t) ∧
    (s.kvalid = true → inputLength s ≤ capacity s → (inputLength s = 0 ∨ inputLength s % 16 ≠ 0) →
      ∀ i, i = .decEcb ∨ i = .decCbc →
        ∃ t, exec i s = .next t ∧ EndedInError .invalidCiphertextLength s t ∧ KeepsSchedule s t)

/-- R280, R226: an ENC.CBC whose draw is not answered stays busy: as long as neither an answer nor a reset arrives,
any number of events and turns leaves it running, with every register of the engine as it was. That the hang is an
unchanged state is the model's choice (log 4). -/
def Obligations.UnansweredDrawNeverCompletes : Prop :=
  ∀ (n : Nat) (s t : State), s.busy = true → s.opc = 0x11 → encryptCheck .cbc s = none → s.rngResp = none →
    (∀ e ∈ s.inbox, e ≠ .reset ∧ ∀ iv, e ≠ .rngAnswer iv) →
    Host.Core.run Sys2Proof.core n s = .next t →
      t = { s with inbox := t.inbox, reads := t.reads, draws := t.draws }

/-! ## Errors -/

/-- R270: whenever a completion step, of a command or of a reserved encoding, at an engine's turn of either kind (log 5),
leaves ERR = 1, the state is that of error entry: one of the codes 1..6, outputs and working registers cleared, everything the host wrote kept, and RK and KVALID
kept unless the command is KEYLOAD, which clears them. -/
def Obligations.ErrorEntryIsUniform : Prop :=
  ∀ (s t : State) (rest : List Event), s.busy = true → s.err = false → TurnIsNext s rest → step s = .next t →
    t.err = true →
    (∃ e, EndedInError e { s with inbox := rest } t) ∧ (s.opc ≠ 0x01 → KeepsSchedule s t) ∧
    (s.opc = 0x01 → t.kvalid = false ∧ ∀ k, k ≤ 10 → roundKey t.rk k = Block.zero)

/-- R270: errors are precise: two accepted states that differ in nothing but the working registers, the output buffer and
its length, and that end the same command with the same error, end in states that differ in nothing. -/
def Obligations.ErrorsLeaveNoTrace : Prop :=
  ∀ (i : Instr) (s t : State) (b c : Block) (m : Memory) (n : BitVec 16),
    s.err = false → exec i s = .next t → t.err = true →
    ∀ u, exec i { s with sreg := b, cv := c, obuf := m, olen := n } = .next u → u = t

/-- R267: which command can end in which error: each entry of the table can occur, and nothing else can. -/
def Obligations.ErrorsByCommand : Prop :=
  ∀ (i : Instr) (c : Byte), i.wellFormed = true → (CanRaise i c ↔
    (i = .keyload ∧ c = 1) ∨
    ((i = .encEcb ∨ i = .encCbc) ∧ (c = 4 ∨ c = 5)) ∨
    ((i = .decEcb ∨ i = .decCbc) ∧ (c = 2 ∨ c = 3 ∨ c = 4 ∨ c = 5)) ∨
    ((i = .blkenc ∨ i = .blkdec ∨ ∃ k, i = .addroundkey k) ∧ c = 4) ∨
    (i = .pad ∧ c = 5) ∨
    (i = .unpad ∧ (c = 2 ∨ c = 3 ∨ c = 5)))

/-- R272: ERR and ERRCODE stay as they are, in an idle engine, until the host issues the next command or resets. -/
def Obligations.ErrorStaysUntilNextCommand : Prop :=
  ∀ s t : State, s.busy = false → step s = .next t →
    (∀ d rest, s.inbox ≠ .write 0x0000 d :: rest) → (∀ rest, s.inbox ≠ .reset :: rest) →
    t.err = s.err ∧ t.errcode = s.errcode ∧ t.done = s.done ∧ t.busy = false

/-! ## Whole-machine rules -/

/-- R21, R22, R28, R29: no command changes KEY, KLEN, ILEN or any byte of IBUF; and no command but ENC.CBC uses up a random
answer (R224). -/
def Obligations.CommandsKeepInputs : Prop :=
  ∀ (i : Instr) (s t : State), exec i s = .next t →
    KeepsInputs s t ∧ KeepsPorts s t ∧ (i ≠ .encCbc → t.rngResp = s.rngResp)

/-- R25, R24: RK and KVALID change in no step but a reset and the completion of a KEYLOAD. -/
def Obligations.ScheduleChangesOnlyByKeyload : Prop :=
  ∀ s t : State, step s = .next t → ¬ KeepsSchedule s t →
    (∃ rest, s.inbox = .reset :: rest) ∨
    (s.busy = true ∧ s.opc = 0x01 ∧ (s.inbox = [] ∨ ∃ rest, s.inbox = .engine :: rest))

/-- R20, R62: one host read of an idle engine does not depend on KEY, RK, CV or OPC: two idle engines that differ in
nothing else return the same byte at every address. It says nothing of reads while busy, nor that the key is confidential:
a host can bring RK into S by ADDROUNDKEY (R298). -/
def Obligations.HiddenRegistersNotRead : Prop :=
  ∀ (s t : State) (a : BitVec 16), s.busy = false →
    t = { s with key := t.key, rk := t.rk, cv := t.cv, opc := t.opc } →
    (hostRead a s).reads = (hostRead a t).reads

/-- R298: key material is not protected: ADDROUNDKEY k on `S = 0^16` leaves RK[k] in S, and round key 0 of a key just
loaded is the key. -/
def Obligations.RoundKeysReadableThroughS : Prop :=
  (∀ (s t : State) (k : BitVec 4), k.toNat ≤ 10 → s.kvalid = true → s.sreg = Block.zero →
    exec (.addroundkey k) s = .next t → t.sreg = roundKey s.rk k.toNat) ∧
  (∀ s t : State, s.klen = 16 → exec .keyload s = .next t → roundKey t.rk 0 = s.key)

/-! ## The computations -/

/-- R121: the laws of the multiplier. For `a ≠ 0` every byte is `a • b` for exactly one `b`. -/
def Obligations.MultiplyLaws : Prop :=
  (∀ a b : Byte, multiply a b = multiply b a) ∧
  (∀ a b c : Byte, multiply (multiply a b) c = multiply a (multiply b c)) ∧
  (∀ a b c : Byte, multiply a (b ^^^ c) = multiply a b ^^^ multiply a c) ∧
  (∀ a : Byte, multiply a 1 = a ∧ multiply a 0 = 0) ∧
  (∀ a c : Byte, a ≠ 0 → ∃ b, multiply a b = c ∧ ∀ b', multiply a b' = c → b' = b) ∧
  multiply 0x53 0xCA = 1 ∧ multiply 0x02 0x8D = 1

/-- R122: the multiples the column mixer needs, in the closed form. -/
def Obligations.MixerMultiples : Prop :=
  ∀ a : Byte,
    multiply 0x01 a = a ∧ multiply 0x02 a = xt a ∧ multiply 0x03 a = xt a ^^^ a ∧
    multiply 0x09 a = xt (xt (xt a)) ^^^ a ∧ multiply 0x0B a = xt (xt (xt a)) ^^^ xt a ^^^ a ∧
    multiply 0x0D a = xt (xt (xt a)) ^^^ xt (xt a) ^^^ a ∧ multiply 0x0E a = xt (xt (xt a)) ^^^ xt (xt a) ^^^ xt a

/-- R132: `invMixColumn` and `mixColumn` undo each other on every column; `mixColumn` is linear, keeps a column of four
equal bytes, as `invMixColumn` does, and is the identity when applied four times. -/
def Obligations.ColumnMixerRoundTrip : Prop :=
  (∀ c : Word, invMixColumn (mixColumn c) = c ∧ mixColumn (invMixColumn c) = c) ∧
  (∀ a b : Word, mixColumn (a.xor b) = (mixColumn a).xor (mixColumn b)) ∧
  (∀ x : Byte, mixColumn ⟨x, x, x, x⟩ = ⟨x, x, x, x⟩ ∧ invMixColumn ⟨x, x, x, x⟩ = ⟨x, x, x, x⟩) ∧
  (∀ c : Word, mixColumn (mixColumn (mixColumn (mixColumn c))) = c)

/-- R143: the S-box is the affine image of the field inverse, the two tables undo each other (so SBOX is a permutation),
SBOX has no fixed point and no opposite fixed point, and with these tables the source's key and block give the source's
ciphertext. -/
def Obligations.SboxIsAffineInverse : Prop :=
  (∀ a v : Byte, multiply a v = 1 ∨ (a = 0 ∧ v = 0) →
    sbox a = v ^^^ v.rotateLeft 1 ^^^ v.rotateLeft 2 ^^^ v.rotateLeft 3 ^^^ v.rotateLeft 4 ^^^ 0x63) ∧
  (∀ b : Byte, invSbox (sbox b) = b ∧ sbox (invSbox b) = b ∧ sbox b ≠ b ∧ sbox b ≠ b ^^^ 0xFF) ∧
  cipher ⟨⟨0x00, 0x11, 0x22, 0x33⟩, ⟨0x44, 0x55, 0x66, 0x77⟩, ⟨0x88, 0x99, 0xAA, 0xBB⟩, ⟨0xCC, 0xDD, 0xEE, 0xFF⟩⟩
      (expand ⟨⟨0x00, 0x01, 0x02, 0x03⟩, ⟨0x04, 0x05, 0x06, 0x07⟩, ⟨0x08, 0x09, 0x0A, 0x0B⟩, ⟨0x0C, 0x0D, 0x0E, 0x0F⟩⟩) =
    ⟨⟨0x69, 0xC4, 0xE0, 0xD8⟩, ⟨0x6A, 0x7B, 0x04, 0x30⟩, ⟨0xD8, 0xCD, 0xB7, 0x80⟩, ⟨0x70, 0xB4, 0xC5, 0x5A⟩⟩

/-- R184, R176: the round steps and their inverses undo each other, and the byte substitutions commute with the row
shifts. -/
def Obligations.RoundStepInverses : Prop :=
  ∀ b k : Block,
    invSubBytes (subBytes b) = b ∧ subBytes (invSubBytes b) = b ∧
    invShiftRows (shiftRows b) = b ∧ shiftRows (invShiftRows b) = b ∧
    invMixColumns (mixColumns b) = b ∧ mixColumns (invMixColumns b) = b ∧
    addRoundKey (addRoundKey b k) k = b ∧
    subBytes (shiftRows b) = shiftRows (subBytes b) ∧ invSubBytes (invShiftRows b) = invShiftRows (invSubBytes b)

/-- R192: the core correctness invariant: for every block and every eleven round keys, whether or not they came from a key,
the two block functions undo each other. -/
def Obligations.BlockTransformRoundTrip : Prop :=
  ∀ (b : Block) (rk : Vector Block 11), invCipher (cipher b rk) rk = b ∧ cipher (invCipher b rk) rk = b

/-- R153, R154: round key 0 is the key, and from any one round key and its index every other round key is determined: two
keys whose schedules agree in one round key are equal. -/
def Obligations.ScheduleDeterminedByOneRoundKey : Prop :=
  (∀ key : Block, roundKey (expand key) 0 = key) ∧
  (∀ (key key' : Block) (r : Nat), r ≤ 10 → roundKey (expand key) r = roundKey (expand key') r → key = key')

/-- R205, R207: padding brings a message of any length to the next multiple of 16 and `unpad` takes it off again; `pad`
gives back what `unpad` accepted; and `unpad` does not ask for the shortest padding. -/
def Obligations.PaddingRoundTrip : Prop :=
  (∀ m : List Byte, unpad (pad m) = some m ∧ (pad m).length = 16 * (m.length / 16 + 1)) ∧
  (∀ d m : List Byte, d.length % 16 = 0 → unpad d = some m → pad m = d) ∧
  (∀ m : List Byte, unpad (m ++ [2, 2, 2]) = some (m ++ [2]))

/-- R230: for every schedule, message, mode and IV, decryption of the encryption gives the message back. -/
def Obligations.MessageRoundTrip : Prop :=
  ∀ (m : List Byte) (rk : Vector Block 11) (mode : Mode) (iv : Block),
    decryptMessage (encryptMessage m rk mode iv) rk mode = some m

/-- R222, R230: the length of an encrypted message; in CBC it begins with the IV. -/
def Obligations.EncryptedLength : Prop :=
  ∀ (m : List Byte) (rk : Vector Block 11) (iv : Block),
    (encryptMessage m rk .ecb iv).length = 16 * (m.length / 16 + 1) ∧
    (encryptMessage m rk .cbc iv).length = 16 + 16 * (m.length / 16 + 1) ∧
    (encryptMessage m rk .cbc iv).take 16 = iv.toList

/-- R230: in ECB, block q of the ciphertext is the cipher of block q of the padded message and of nothing else; in CBC it
is the cipher of that block XORed with ciphertext block q - 1 (the IV for the first); and in CBC decryption, plaintext
block q is the inverse cipher of ciphertext block q XORed with ciphertext block q - 1. -/
def Obligations.ChainingByBlock : Prop :=
  ∀ (rk : Vector Block 11) (iv : Block) (bs : List Block) (q : Nat), q < bs.length →
    (encryptLoop rk .ecb iv bs)[q]? = (bs[q]?).map (fun b => cipher b rk) ∧
    (encryptLoop rk .cbc iv bs)[q]? =
      (bs[q]?).map (fun b => cipher (b.xor ((iv :: encryptLoop rk .cbc iv bs).getD q iv)) rk) ∧
    (decryptLoop rk .ecb iv bs)[q]? = (bs[q]?).map (fun c => invCipher c rk) ∧
    (decryptLoop rk .cbc iv bs)[q]? = (bs[q]?).map (fun c => (invCipher c rk).xor ((iv :: bs).getD q iv))

/-- R230 at command level: if an encryption command succeeds and the host copies OBUF[0..OLEN) to IBUF and OLEN to ILEN,
the decryption command of the same mode then succeeds and gives the original message. -/
def Obligations.CommandRoundTrip : Prop :=
  ∀ (e d : Instr) (s t u : State),
    (e = .encEcb ∧ d = .decEcb) ∨ (e = .encCbc ∧ d = .decCbc) →
    s.err = false → exec e s = .next t → t.done = true → s.done = false → t.err = false →
    u.cfg = s.cfg → u.rk = t.rk → u.kvalid = t.kvalid → u.ilen = t.olen →
    (∀ j, j < outputLength t → ibufByte u j = obufByte t j) → u.err = false →
    ∃ v, exec d u = .next v ∧ v.err = false ∧ v.done = true ∧ outputBytes v = inputBytes s

/-! ## Invariants -/

/-- The state after reset meets the invariant, for every legal BUF_BYTES (R45, R31, R32, R40). What the invariant says
of the model's own fields is its choice (log 2, log 4, log 10). -/
def Obligations.ResetMeetsInvariant : Prop := ∀ c : Config, Inv (State.resetOf c)

/-- The invariant is kept by every step, from every state that meets it: the legal flags (R32), ERRCODE (R33), the
sequencer (R40), CV (R26), the canonical form of the buffers, OBUF and OLEN (R31), and RK with KVALID (R24). The
canonical form (log 2), the answer field (log 4) and CHECK as the one busy phase (log 10) are the model's choices. -/
def Obligations.StepKeepsInvariant : Prop := ∀ s t : State, Inv s → step s = .next t → Inv t

/-- R94, R300: in any busy state, a command other than an ENC.CBC that waits for its draw completes at the engine's
turn, of either kind: BUSY = 0 and DONE = 1 after it. That one turn is enough is the model's schedule (log 5). -/
def Obligations.CommandsComplete : Prop :=
  ∀ (s : State) (rest : List Event), s.busy = true → TurnIsNext s rest →
    ¬ (s.opc = 0x11 ∧ encryptCheck .cbc s = none ∧ s.rngResp = none) →
    ∃ t, step s = .next t ∧ t.busy = false ∧ t.done = true ∧ t.seq = .idle

/-! ## The sequencer -/

/-- R41, R156, R193: for KEYLOAD, the block commands, the unit commands, PAD and UNPAD, the micro-steps from
acceptance to IDLE end in the state the big-step rule gives. The phases of PAD and UNPAD, of the
block commands around ROUND and of the unit commands are the model's choice (log 10). -/
def Obligations.SequencerRefinesCommands : Prop :=
  ∀ (s : State) (i : Instr), Inv s → s.busy = true → decode s.opc = .ok i →
    i ≠ .encEcb → i ≠ .encCbc → i ≠ .decEcb → i ≠ .decCbc →
    ∃ n, exec i s = .next (seqRun n s) ∧ n ≤ 42

/-- R41, R229: the same for the message commands, whose number of micro-steps is linear in the message length (R300);
an ENC.CBC whose draw is not answered stays in IVGEN for ever (R280). The phases where the rules are silent are the
model's choice (log 10). -/
def Obligations.SequencerRefinesMessages : Prop :=
  ∀ (s : State) (i : Instr), Inv s → s.busy = true → decode s.opc = .ok i →
    i = .encEcb ∨ i = .encCbc ∨ i = .decEcb ∨ i = .decCbc →
    (¬ (i = .encCbc ∧ encryptCheck .cbc s = none ∧ s.rngResp = none) →
      ∃ n, exec i s = .next (seqRun n s) ∧ n ≤ 13 * (inputLength s / 16 + 1) + 4) ∧
    ((i = .encCbc ∧ encryptCheck .cbc s = none ∧ s.rngResp = none) →
      ∀ n, 2 ≤ n → seqRun n s = { s with seq := .ivgen })

/-! ## Host wrapper -/

/-- R245, R246: decoding what the encoder produced gives the bytes back, and the decoder accepts nothing else. -/
def Obligations.HexRoundTrip : Prop :=
  (∀ bs : List Byte, hexDecode (hexEncode bs) = some bs ∧ (hexEncode bs).length = 2 * bs.length) ∧
  (∀ (cs : List Char) (bs : List Byte), hexDecode cs = some bs → hexEncode bs = cs)
end

