-- ==== Sys2Proof/Laws/Blocks.lean ====
section
/-! SUPPORT. The laws of words, blocks and byte strings: indexing, and cutting a byte string into blocks and back. -/

namespace Sys2Proof

theorem Word.xor_self_right (a b : Word) : (a.xor b).xor b = a := by
  cases a; cases b; simp [Word.xor]

theorem Block.xor_self_right (a b : Block) : (a.xor b).xor b = a := by
  cases a; cases b; simp [Block.xor, Word.xor_self_right]

theorem Block.xor_get (a b : Block) (i : Nat) (hi : i < 16) : (a.xor b).get i = a.get i ^^^ b.get i := by
  interval_cases i <;> rfl

theorem Block.get_ofFn (f : Nat → Byte) (i : Nat) (hi : i < 16) : (Block.ofFn f).get i = f i := by
  interval_cases i <;> rfl

theorem Block.ext_get (a b : Block) (h : ∀ i, i < 16 → a.get i = b.get i) : a = b := by
  obtain ⟨⟨a0, a1, a2, a3⟩, ⟨a4, a5, a6, a7⟩, ⟨a8, a9, aa, ab⟩, ⟨ac, ad, ae, af⟩⟩ := a
  obtain ⟨⟨b0, b1, b2, b3⟩, ⟨b4, b5, b6, b7⟩, ⟨b8, b9, ba, bb⟩, ⟨bc, bd, be, bf⟩⟩ := b
  have h0 : a0 = b0 := h 0 (by omega)
  have h1 : a1 = b1 := h 1 (by omega)
  have h2 : a2 = b2 := h 2 (by omega)
  have h3 : a3 = b3 := h 3 (by omega)
  have h4 : a4 = b4 := h 4 (by omega)
  have h5 : a5 = b5 := h 5 (by omega)
  have h6 : a6 = b6 := h 6 (by omega)
  have h7 : a7 = b7 := h 7 (by omega)
  have h8 : a8 = b8 := h 8 (by omega)
  have h9 : a9 = b9 := h 9 (by omega)
  have h10 : aa = ba := h 10 (by omega)
  have h11 : ab = bb := h 11 (by omega)
  have h12 : ac = bc := h 12 (by omega)
  have h13 : ad = bd := h 13 (by omega)
  have h14 : ae = be := h 14 (by omega)
  have h15 : af = bf := h 15 (by omega)
  subst h0 h1 h2 h3 h4 h5 h6 h7 h8 h9 h10 h11 h12 h13 h14 h15
  rfl

theorem Block.get_set (b : Block) (i j : Nat) (v : Byte) (hi : i < 16) (hj : j < 16) :
    (b.set i v).get j = if i = j then v else b.get j := by
  interval_cases i <;> interval_cases j <;> rfl

@[simp] theorem Word.length_toList (w : Word) : w.toList.length = 4 := rfl

@[simp] theorem Block.length_toList (b : Block) : b.toList.length = 16 := rfl

theorem Block.toList_getD (b : Block) (i : Nat) (hi : i < 16) : b.toList.getD i 0 = b.get i := by
  interval_cases i <;> rfl

theorem blockAt_get (d : List Byte) (off i : Nat) (hi : i < 16) : (blockAt d off).get i = d.getD (off + i) 0 :=
  Block.get_ofFn _ i hi

/-- The block at the front of a byte string that begins with a block is that block. -/
theorem blockAt_toList_append (b : Block) (d : List Byte) : blockAt (b.toList ++ d) 0 = b := by
  obtain ⟨⟨_, _, _, _⟩, ⟨_, _, _, _⟩, ⟨_, _, _, _⟩, ⟨_, _, _, _⟩⟩ := b
  rfl

theorem blockAt_append_right (b : Block) (d : List Byte) (off : Nat) :
    blockAt (b.toList ++ d) (16 + off) = blockAt d off := by
  refine Block.ext_get _ _ fun i hi => ?_
  rw [blockAt_get _ _ _ hi, blockAt_get _ _ _ hi]
  simp only [List.getD_eq_getElem?_getD]
  rw [List.getElem?_append_right (by simp; omega)]
  congr 2
  simp
  omega

@[simp] theorem bytesOf_nil : bytesOf [] = [] := rfl

@[simp] theorem bytesOf_cons (b : Block) (bs : List Block) : bytesOf (b :: bs) = b.toList ++ bytesOf bs := rfl

@[simp] theorem bytesOf_length (bs : List Block) : (bytesOf bs).length = 16 * bs.length := by
  induction bs with
  | nil => rfl
  | cons b bs ih => simp [ih]; omega

@[simp] theorem blocksOf_length (d : List Byte) : (blocksOf d).length = d.length / 16 := by simp [blocksOf]

theorem blocksOf_cons (b : Block) (d : List Byte) : blocksOf (b.toList ++ d) = b :: blocksOf d := by
  have h : (b.toList ++ d).length / 16 = d.length / 16 + 1 := by simp
  simp only [blocksOf, h, List.range_succ_eq_map, List.map_cons, List.map_map]
  refine List.cons_eq_cons.mpr ⟨blockAt_toList_append b d, ?_⟩
  · refine List.map_congr_left fun q _ => ?_
    show blockAt (b.toList ++ d) (16 * (q + 1)) = blockAt d (16 * q)
    rw [show 16 * (q + 1) = 16 + 16 * q by omega, blockAt_append_right]

/-- Cutting the bytes of blocks into blocks gives the blocks back. -/
theorem blocksOf_bytesOf (bs : List Block) : blocksOf (bytesOf bs) = bs := by
  induction bs with
  | nil => rfl
  | cons b bs ih => rw [bytesOf_cons, blocksOf_cons, ih]

/-- A byte string of at least sixteen bytes begins with its first block. -/
theorem eq_blockAt_append_drop (d : List Byte) (h : 16 ≤ d.length) : d = (blockAt d 0).toList ++ d.drop 16 := by
  obtain ⟨x0, d, rfl⟩ := List.exists_cons_of_length_pos (l := d) (by omega)
  obtain ⟨x1, d, rfl⟩ := List.exists_cons_of_length_pos (l := d) (by simp at h; omega)
  obtain ⟨x2, d, rfl⟩ := List.exists_cons_of_length_pos (l := d) (by simp at h; omega)
  obtain ⟨x3, d, rfl⟩ := List.exists_cons_of_length_pos (l := d) (by simp at h; omega)
  obtain ⟨x4, d, rfl⟩ := List.exists_cons_of_length_pos (l := d) (by simp at h; omega)
  obtain ⟨x5, d, rfl⟩ := List.exists_cons_of_length_pos (l := d) (by simp at h; omega)
  obtain ⟨x6, d, rfl⟩ := List.exists_cons_of_length_pos (l := d) (by simp at h; omega)
  obtain ⟨x7, d, rfl⟩ := List.exists_cons_of_length_pos (l := d) (by simp at h; omega)
  obtain ⟨x8, d, rfl⟩ := List.exists_cons_of_length_pos (l := d) (by simp at h; omega)
  obtain ⟨x9, d, rfl⟩ := List.exists_cons_of_length_pos (l := d) (by simp at h; omega)
  obtain ⟨xa, d, rfl⟩ := List.exists_cons_of_length_pos (l := d) (by simp at h; omega)
  obtain ⟨xb, d, rfl⟩ := List.exists_cons_of_length_pos (l := d) (by simp at h; omega)
  obtain ⟨xc, d, rfl⟩ := List.exists_cons_of_length_pos (l := d) (by simp at h; omega)
  obtain ⟨xd, d, rfl⟩ := List.exists_cons_of_length_pos (l := d) (by simp at h; omega)
  obtain ⟨xe, d, rfl⟩ := List.exists_cons_of_length_pos (l := d) (by simp at h; omega)
  obtain ⟨xf, d, rfl⟩ := List.exists_cons_of_length_pos (l := d) (by simp at h; omega)
  rfl

/-- Joining the blocks of a byte string whose length is a multiple of 16 gives the string back. -/
theorem bytesOf_blocksOf (n : Nat) (d : List Byte) (h : d.length = 16 * n) : bytesOf (blocksOf d) = d := by
  induction n generalizing d with
  | zero => have : d = [] := by simpa using h
            subst this; rfl
  | succ n ih =>
    have h1 := eq_blockAt_append_drop d (by omega)
    have h2 := ih (d.drop 16) (by simp; omega)
    rw [h1, blocksOf_cons, bytesOf_cons, h2]

end Sys2Proof

namespace Sys2Proof.Machine

open Sys2Proof

@[simp] theorem pad_length (m : List Byte) : (pad m).length = 16 * (m.length / 16 + 1) := by
  simp [pad, padLength]; omega

@[simp] theorem encryptLoop_length (rk : Vector Block 11) (mode : Mode) (cv : Block) (bs : List Block) :
    (encryptLoop rk mode cv bs).length = bs.length := by
  induction bs generalizing cv with
  | nil => rfl
  | cons b bs ih => simp [encryptLoop, ih]

@[simp] theorem decryptLoop_length (rk : Vector Block 11) (mode : Mode) (cv : Block) (bs : List Block) :
    (decryptLoop rk mode cv bs).length = bs.length := by
  induction bs generalizing cv with
  | nil => rfl
  | cons b bs ih => simp [decryptLoop, ih]

theorem encryptMessage_length_eq (m : List Byte) (rk : Vector Block 11) (mode : Mode) (iv : Block) :
    (encryptMessage m rk mode iv).length = encryptedLength mode m.length := by
  cases mode <;> simp [encryptMessage, encryptedLength, paddedLength]; omega

/-- What `unpad` accepts is at least one byte longer than its result. -/
theorem unpad_length_lt (d m : List Byte) (h : unpad d = some m) : m.length < d.length := by
  unfold unpad at h
  repeat' split at h
  all_goals first
    | (simp at h; done)
    | (have h' := Option.some.inj h
       subst h'
       rename_i h0 h1 h2 h3
       simp only [List.length_take]
       omega)

theorem decryptStream_length_le (c : List Byte) (rk : Vector Block 11) (mode : Mode) :
    (decryptStream c rk mode).length ≤ c.length := by
  cases mode <;> simp [decryptStream] <;> omega

theorem decryptMessage_length_lt (c m : List Byte) (rk : Vector Block 11) (mode : Mode)
    (h : decryptMessage c rk mode = some m) : m.length < c.length :=
  Nat.lt_of_lt_of_le (unpad_length_lt _ _ h) (decryptStream_length_le c rk mode)

@[simp] theorem inputBytes_length (s : State) : (inputBytes s).length = inputLength s := by
  simp [inputBytes, ibufBytes]

end Sys2Proof.Machine
end

