-- ==== Sys2Proof/Laws/State.lean ====
section
/-! SUPPORT. One lemma per field per update of `State`, true by `rfl`, so that no proof unfolds a record update. -/

namespace Sys2Proof.Machine

open Sys2Proof

@[simp] theorem flagsAccepted_key (s : State) : (flagsAccepted s).key = s.key := rfl
@[simp] theorem flagsAccepted_klen (s : State) : (flagsAccepted s).klen = s.klen := rfl
@[simp] theorem flagsAccepted_rk (s : State) : (flagsAccepted s).rk = s.rk := rfl
@[simp] theorem flagsAccepted_kvalid (s : State) : (flagsAccepted s).kvalid = s.kvalid := rfl
@[simp] theorem flagsAccepted_sreg (s : State) : (flagsAccepted s).sreg = s.sreg := rfl
@[simp] theorem flagsAccepted_cv (s : State) : (flagsAccepted s).cv = s.cv := rfl
@[simp] theorem flagsAccepted_ibuf (s : State) : (flagsAccepted s).ibuf = s.ibuf := rfl
@[simp] theorem flagsAccepted_ilen (s : State) : (flagsAccepted s).ilen = s.ilen := rfl
@[simp] theorem flagsAccepted_obuf (s : State) : (flagsAccepted s).obuf = s.obuf := rfl
@[simp] theorem flagsAccepted_olen (s : State) : (flagsAccepted s).olen = s.olen := rfl
@[simp] theorem flagsAccepted_busy (s : State) : (flagsAccepted s).busy = true := rfl
@[simp] theorem flagsAccepted_done (s : State) : (flagsAccepted s).done = false := rfl
@[simp] theorem flagsAccepted_err (s : State) : (flagsAccepted s).err = false := rfl
@[simp] theorem flagsAccepted_errcode (s : State) : (flagsAccepted s).errcode = 0 := rfl
@[simp] theorem flagsAccepted_opc (s : State) : (flagsAccepted s).opc = s.opc := rfl
@[simp] theorem flagsAccepted_seq (s : State) : (flagsAccepted s).seq = s.seq := rfl
@[simp] theorem flagsAccepted_cfg (s : State) : (flagsAccepted s).cfg = s.cfg := rfl
@[simp] theorem flagsAccepted_rngResp (s : State) : (flagsAccepted s).rngResp = s.rngResp := rfl
@[simp] theorem flagsAccepted_inbox (s : State) : (flagsAccepted s).inbox = s.inbox := rfl
@[simp] theorem flagsAccepted_reads (s : State) : (flagsAccepted s).reads = s.reads := rfl
@[simp] theorem flagsAccepted_epoch (s : State) : (flagsAccepted s).epoch = s.epoch := rfl
@[simp] theorem flagsAccepted_draws (s : State) : (flagsAccepted s).draws = s.draws := rfl
@[simp] theorem flagsAccepted_capacity (s : State) : capacity (flagsAccepted s) = capacity s := rfl
@[simp] theorem flagsAccepted_inputLength (s : State) : inputLength (flagsAccepted s) = inputLength s := rfl
@[simp] theorem flagsAccepted_ibufByte (s : State) (j : Nat) : ibufByte (flagsAccepted s) j = ibufByte s j := rfl
@[simp] theorem flagsAccepted_obufByte (s : State) (j : Nat) : obufByte (flagsAccepted s) j = obufByte s j := rfl
@[simp] theorem flagsAccepted_outputLength (s : State) : outputLength (flagsAccepted s) = outputLength s := rfl

@[simp] theorem flagsCompleted_key (s : State) : (flagsCompleted s).key = s.key := rfl
@[simp] theorem flagsCompleted_klen (s : State) : (flagsCompleted s).klen = s.klen := rfl
@[simp] theorem flagsCompleted_rk (s : State) : (flagsCompleted s).rk = s.rk := rfl
@[simp] theorem flagsCompleted_kvalid (s : State) : (flagsCompleted s).kvalid = s.kvalid := rfl
@[simp] theorem flagsCompleted_sreg (s : State) : (flagsCompleted s).sreg = s.sreg := rfl
@[simp] theorem flagsCompleted_cv (s : State) : (flagsCompleted s).cv = s.cv := rfl
@[simp] theorem flagsCompleted_ibuf (s : State) : (flagsCompleted s).ibuf = s.ibuf := rfl
@[simp] theorem flagsCompleted_ilen (s : State) : (flagsCompleted s).ilen = s.ilen := rfl
@[simp] theorem flagsCompleted_obuf (s : State) : (flagsCompleted s).obuf = s.obuf := rfl
@[simp] theorem flagsCompleted_olen (s : State) : (flagsCompleted s).olen = s.olen := rfl
@[simp] theorem flagsCompleted_busy (s : State) : (flagsCompleted s).busy = false := rfl
@[simp] theorem flagsCompleted_done (s : State) : (flagsCompleted s).done = true := rfl
@[simp] theorem flagsCompleted_err (s : State) : (flagsCompleted s).err = s.err := rfl
@[simp] theorem flagsCompleted_errcode (s : State) : (flagsCompleted s).errcode = s.errcode := rfl
@[simp] theorem flagsCompleted_opc (s : State) : (flagsCompleted s).opc = s.opc := rfl
@[simp] theorem flagsCompleted_seq (s : State) : (flagsCompleted s).seq = s.seq := rfl
@[simp] theorem flagsCompleted_cfg (s : State) : (flagsCompleted s).cfg = s.cfg := rfl
@[simp] theorem flagsCompleted_rngResp (s : State) : (flagsCompleted s).rngResp = s.rngResp := rfl
@[simp] theorem flagsCompleted_inbox (s : State) : (flagsCompleted s).inbox = s.inbox := rfl
@[simp] theorem flagsCompleted_reads (s : State) : (flagsCompleted s).reads = s.reads := rfl
@[simp] theorem flagsCompleted_epoch (s : State) : (flagsCompleted s).epoch = s.epoch := rfl
@[simp] theorem flagsCompleted_draws (s : State) : (flagsCompleted s).draws = s.draws := rfl
@[simp] theorem flagsCompleted_capacity (s : State) : capacity (flagsCompleted s) = capacity s := rfl
@[simp] theorem flagsCompleted_inputLength (s : State) : inputLength (flagsCompleted s) = inputLength s := rfl
@[simp] theorem flagsCompleted_ibufByte (s : State) (j : Nat) : ibufByte (flagsCompleted s) j = ibufByte s j := rfl
@[simp] theorem flagsCompleted_obufByte (s : State) (j : Nat) : obufByte (flagsCompleted s) j = obufByte s j := rfl
@[simp] theorem flagsCompleted_outputLength (s : State) : outputLength (flagsCompleted s) = outputLength s := rfl

@[simp] theorem flagsError_key (e : ErrKind) (s : State) : (flagsError e s).key = s.key := rfl
@[simp] theorem flagsError_klen (e : ErrKind) (s : State) : (flagsError e s).klen = s.klen := rfl
@[simp] theorem flagsError_rk (e : ErrKind) (s : State) : (flagsError e s).rk = s.rk := rfl
@[simp] theorem flagsError_kvalid (e : ErrKind) (s : State) : (flagsError e s).kvalid = s.kvalid := rfl
@[simp] theorem flagsError_sreg (e : ErrKind) (s : State) : (flagsError e s).sreg = s.sreg := rfl
@[simp] theorem flagsError_cv (e : ErrKind) (s : State) : (flagsError e s).cv = s.cv := rfl
@[simp] theorem flagsError_ibuf (e : ErrKind) (s : State) : (flagsError e s).ibuf = s.ibuf := rfl
@[simp] theorem flagsError_ilen (e : ErrKind) (s : State) : (flagsError e s).ilen = s.ilen := rfl
@[simp] theorem flagsError_obuf (e : ErrKind) (s : State) : (flagsError e s).obuf = s.obuf := rfl
@[simp] theorem flagsError_olen (e : ErrKind) (s : State) : (flagsError e s).olen = s.olen := rfl
@[simp] theorem flagsError_busy (e : ErrKind) (s : State) : (flagsError e s).busy = s.busy := rfl
@[simp] theorem flagsError_done (e : ErrKind) (s : State) : (flagsError e s).done = s.done := rfl
@[simp] theorem flagsError_err (e : ErrKind) (s : State) : (flagsError e s).err = true := rfl
@[simp] theorem flagsError_errcode (e : ErrKind) (s : State) : (flagsError e s).errcode = e.code := rfl
@[simp] theorem flagsError_opc (e : ErrKind) (s : State) : (flagsError e s).opc = s.opc := rfl
@[simp] theorem flagsError_seq (e : ErrKind) (s : State) : (flagsError e s).seq = s.seq := rfl
@[simp] theorem flagsError_cfg (e : ErrKind) (s : State) : (flagsError e s).cfg = s.cfg := rfl
@[simp] theorem flagsError_rngResp (e : ErrKind) (s : State) : (flagsError e s).rngResp = s.rngResp := rfl
@[simp] theorem flagsError_inbox (e : ErrKind) (s : State) : (flagsError e s).inbox = s.inbox := rfl
@[simp] theorem flagsError_reads (e : ErrKind) (s : State) : (flagsError e s).reads = s.reads := rfl
@[simp] theorem flagsError_epoch (e : ErrKind) (s : State) : (flagsError e s).epoch = s.epoch := rfl
@[simp] theorem flagsError_draws (e : ErrKind) (s : State) : (flagsError e s).draws = s.draws := rfl
@[simp] theorem flagsError_capacity (e : ErrKind) (s : State) : capacity (flagsError e s) = capacity s := rfl
@[simp] theorem flagsError_inputLength (e : ErrKind) (s : State) : inputLength (flagsError e s) = inputLength s := rfl
@[simp] theorem flagsError_ibufByte (e : ErrKind) (s : State) (j : Nat) : ibufByte (flagsError e s) j = ibufByte s j := rfl
@[simp] theorem flagsError_obufByte (e : ErrKind) (s : State) (j : Nat) : obufByte (flagsError e s) j = obufByte s j := rfl
@[simp] theorem flagsError_outputLength (e : ErrKind) (s : State) : outputLength (flagsError e s) = outputLength s := rfl

@[simp] theorem accept_key (d : Byte) (s : State) : (accept d s).key = s.key := rfl
@[simp] theorem accept_klen (d : Byte) (s : State) : (accept d s).klen = s.klen := rfl
@[simp] theorem accept_rk (d : Byte) (s : State) : (accept d s).rk = s.rk := rfl
@[simp] theorem accept_kvalid (d : Byte) (s : State) : (accept d s).kvalid = s.kvalid := rfl
@[simp] theorem accept_sreg (d : Byte) (s : State) : (accept d s).sreg = s.sreg := rfl
@[simp] theorem accept_cv (d : Byte) (s : State) : (accept d s).cv = s.cv := rfl
@[simp] theorem accept_ibuf (d : Byte) (s : State) : (accept d s).ibuf = s.ibuf := rfl
@[simp] theorem accept_ilen (d : Byte) (s : State) : (accept d s).ilen = s.ilen := rfl
@[simp] theorem accept_obuf (d : Byte) (s : State) : (accept d s).obuf = s.obuf := rfl
@[simp] theorem accept_olen (d : Byte) (s : State) : (accept d s).olen = s.olen := rfl
@[simp] theorem accept_busy (d : Byte) (s : State) : (accept d s).busy = true := rfl
@[simp] theorem accept_done (d : Byte) (s : State) : (accept d s).done = false := rfl
@[simp] theorem accept_err (d : Byte) (s : State) : (accept d s).err = false := rfl
@[simp] theorem accept_errcode (d : Byte) (s : State) : (accept d s).errcode = 0 := rfl
@[simp] theorem accept_opc (d : Byte) (s : State) : (accept d s).opc = d := rfl
@[simp] theorem accept_seq (d : Byte) (s : State) : (accept d s).seq = .check := rfl
@[simp] theorem accept_cfg (d : Byte) (s : State) : (accept d s).cfg = s.cfg := rfl
@[simp] theorem accept_rngResp (d : Byte) (s : State) : (accept d s).rngResp = s.rngResp := rfl
@[simp] theorem accept_inbox (d : Byte) (s : State) : (accept d s).inbox = s.inbox := rfl
@[simp] theorem accept_reads (d : Byte) (s : State) : (accept d s).reads = s.reads := rfl
@[simp] theorem accept_epoch (d : Byte) (s : State) : (accept d s).epoch = s.epoch := rfl
@[simp] theorem accept_draws (d : Byte) (s : State) : (accept d s).draws = s.draws := rfl
@[simp] theorem accept_capacity (d : Byte) (s : State) : capacity (accept d s) = capacity s := rfl
@[simp] theorem accept_inputLength (d : Byte) (s : State) : inputLength (accept d s) = inputLength s := rfl
@[simp] theorem accept_ibufByte (d : Byte) (s : State) (j : Nat) : ibufByte (accept d s) j = ibufByte s j := rfl
@[simp] theorem accept_obufByte (d : Byte) (s : State) (j : Nat) : obufByte (accept d s) j = obufByte s j := rfl
@[simp] theorem accept_outputLength (d : Byte) (s : State) : outputLength (accept d s) = outputLength s := rfl

@[simp] theorem complete_key (s : State) : (complete s).key = s.key := rfl
@[simp] theorem complete_klen (s : State) : (complete s).klen = s.klen := rfl
@[simp] theorem complete_rk (s : State) : (complete s).rk = s.rk := rfl
@[simp] theorem complete_kvalid (s : State) : (complete s).kvalid = s.kvalid := rfl
@[simp] theorem complete_sreg (s : State) : (complete s).sreg = s.sreg := rfl
@[simp] theorem complete_cv (s : State) : (complete s).cv = s.cv := rfl
@[simp] theorem complete_ibuf (s : State) : (complete s).ibuf = s.ibuf := rfl
@[simp] theorem complete_ilen (s : State) : (complete s).ilen = s.ilen := rfl
@[simp] theorem complete_obuf (s : State) : (complete s).obuf = s.obuf := rfl
@[simp] theorem complete_olen (s : State) : (complete s).olen = s.olen := rfl
@[simp] theorem complete_busy (s : State) : (complete s).busy = false := rfl
@[simp] theorem complete_done (s : State) : (complete s).done = true := rfl
@[simp] theorem complete_err (s : State) : (complete s).err = s.err := rfl
@[simp] theorem complete_errcode (s : State) : (complete s).errcode = s.errcode := rfl
@[simp] theorem complete_opc (s : State) : (complete s).opc = s.opc := rfl
@[simp] theorem complete_seq (s : State) : (complete s).seq = .idle := rfl
@[simp] theorem complete_cfg (s : State) : (complete s).cfg = s.cfg := rfl
@[simp] theorem complete_rngResp (s : State) : (complete s).rngResp = s.rngResp := rfl
@[simp] theorem complete_inbox (s : State) : (complete s).inbox = s.inbox := rfl
@[simp] theorem complete_reads (s : State) : (complete s).reads = s.reads := rfl
@[simp] theorem complete_epoch (s : State) : (complete s).epoch = s.epoch := rfl
@[simp] theorem complete_draws (s : State) : (complete s).draws = s.draws := rfl
@[simp] theorem complete_capacity (s : State) : capacity (complete s) = capacity s := rfl
@[simp] theorem complete_inputLength (s : State) : inputLength (complete s) = inputLength s := rfl
@[simp] theorem complete_ibufByte (s : State) (j : Nat) : ibufByte (complete s) j = ibufByte s j := rfl
@[simp] theorem complete_obufByte (s : State) (j : Nat) : obufByte (complete s) j = obufByte s j := rfl
@[simp] theorem complete_outputLength (s : State) : outputLength (complete s) = outputLength s := rfl

@[simp] theorem clearOutputs_key (s : State) : (clearOutputs s).key = s.key := rfl
@[simp] theorem clearOutputs_klen (s : State) : (clearOutputs s).klen = s.klen := rfl
@[simp] theorem clearOutputs_rk (s : State) : (clearOutputs s).rk = s.rk := rfl
@[simp] theorem clearOutputs_kvalid (s : State) : (clearOutputs s).kvalid = s.kvalid := rfl
@[simp] theorem clearOutputs_sreg (s : State) : (clearOutputs s).sreg = Block.zero := rfl
@[simp] theorem clearOutputs_cv (s : State) : (clearOutputs s).cv = Block.zero := rfl
@[simp] theorem clearOutputs_ibuf (s : State) : (clearOutputs s).ibuf = s.ibuf := rfl
@[simp] theorem clearOutputs_ilen (s : State) : (clearOutputs s).ilen = s.ilen := rfl
@[simp] theorem clearOutputs_obuf (s : State) : (clearOutputs s).obuf = Memory.zeros (capacity s) := rfl
@[simp] theorem clearOutputs_olen (s : State) : (clearOutputs s).olen = 0 := rfl
@[simp] theorem clearOutputs_busy (s : State) : (clearOutputs s).busy = s.busy := rfl
@[simp] theorem clearOutputs_done (s : State) : (clearOutputs s).done = s.done := rfl
@[simp] theorem clearOutputs_err (s : State) : (clearOutputs s).err = s.err := rfl
@[simp] theorem clearOutputs_errcode (s : State) : (clearOutputs s).errcode = s.errcode := rfl
@[simp] theorem clearOutputs_opc (s : State) : (clearOutputs s).opc = s.opc := rfl
@[simp] theorem clearOutputs_seq (s : State) : (clearOutputs s).seq = s.seq := rfl
@[simp] theorem clearOutputs_cfg (s : State) : (clearOutputs s).cfg = s.cfg := rfl
@[simp] theorem clearOutputs_rngResp (s : State) : (clearOutputs s).rngResp = s.rngResp := rfl
@[simp] theorem clearOutputs_inbox (s : State) : (clearOutputs s).inbox = s.inbox := rfl
@[simp] theorem clearOutputs_reads (s : State) : (clearOutputs s).reads = s.reads := rfl
@[simp] theorem clearOutputs_epoch (s : State) : (clearOutputs s).epoch = s.epoch := rfl
@[simp] theorem clearOutputs_draws (s : State) : (clearOutputs s).draws = s.draws := rfl
@[simp] theorem clearOutputs_capacity (s : State) : capacity (clearOutputs s) = capacity s := rfl
@[simp] theorem clearOutputs_inputLength (s : State) : inputLength (clearOutputs s) = inputLength s := rfl
@[simp] theorem clearOutputs_ibufByte (s : State) (j : Nat) : ibufByte (clearOutputs s) j = ibufByte s j := rfl

@[simp] theorem raise_key (e : ErrKind) (s : State) : (raise e s).key = s.key := rfl
@[simp] theorem raise_klen (e : ErrKind) (s : State) : (raise e s).klen = s.klen := rfl
@[simp] theorem raise_rk (e : ErrKind) (s : State) : (raise e s).rk = s.rk := rfl
@[simp] theorem raise_kvalid (e : ErrKind) (s : State) : (raise e s).kvalid = s.kvalid := rfl
@[simp] theorem raise_sreg (e : ErrKind) (s : State) : (raise e s).sreg = Block.zero := rfl
@[simp] theorem raise_cv (e : ErrKind) (s : State) : (raise e s).cv = Block.zero := rfl
@[simp] theorem raise_ibuf (e : ErrKind) (s : State) : (raise e s).ibuf = s.ibuf := rfl
@[simp] theorem raise_ilen (e : ErrKind) (s : State) : (raise e s).ilen = s.ilen := rfl
@[simp] theorem raise_obuf (e : ErrKind) (s : State) : (raise e s).obuf = Memory.zeros (capacity s) := rfl
@[simp] theorem raise_olen (e : ErrKind) (s : State) : (raise e s).olen = 0 := rfl
@[simp] theorem raise_busy (e : ErrKind) (s : State) : (raise e s).busy = false := rfl
@[simp] theorem raise_done (e : ErrKind) (s : State) : (raise e s).done = true := rfl
@[simp] theorem raise_err (e : ErrKind) (s : State) : (raise e s).err = true := rfl
@[simp] theorem raise_errcode (e : ErrKind) (s : State) : (raise e s).errcode = e.code := rfl
@[simp] theorem raise_opc (e : ErrKind) (s : State) : (raise e s).opc = s.opc := rfl
@[simp] theorem raise_seq (e : ErrKind) (s : State) : (raise e s).seq = .idle := rfl
@[simp] theorem raise_cfg (e : ErrKind) (s : State) : (raise e s).cfg = s.cfg := rfl
@[simp] theorem raise_rngResp (e : ErrKind) (s : State) : (raise e s).rngResp = s.rngResp := rfl
@[simp] theorem raise_inbox (e : ErrKind) (s : State) : (raise e s).inbox = s.inbox := rfl
@[simp] theorem raise_reads (e : ErrKind) (s : State) : (raise e s).reads = s.reads := rfl
@[simp] theorem raise_epoch (e : ErrKind) (s : State) : (raise e s).epoch = s.epoch := rfl
@[simp] theorem raise_draws (e : ErrKind) (s : State) : (raise e s).draws = s.draws := rfl
@[simp] theorem raise_capacity (e : ErrKind) (s : State) : capacity (raise e s) = capacity s := rfl
@[simp] theorem raise_inputLength (e : ErrKind) (s : State) : inputLength (raise e s) = inputLength s := rfl
@[simp] theorem raise_ibufByte (e : ErrKind) (s : State) (j : Nat) : ibufByte (raise e s) j = ibufByte s j := rfl

@[simp] theorem dropSchedule_key (s : State) : (dropSchedule s).key = s.key := rfl
@[simp] theorem dropSchedule_klen (s : State) : (dropSchedule s).klen = s.klen := rfl
@[simp] theorem dropSchedule_rk (s : State) : (dropSchedule s).rk = zeroSchedule := rfl
@[simp] theorem dropSchedule_kvalid (s : State) : (dropSchedule s).kvalid = false := rfl
@[simp] theorem dropSchedule_sreg (s : State) : (dropSchedule s).sreg = s.sreg := rfl
@[simp] theorem dropSchedule_cv (s : State) : (dropSchedule s).cv = s.cv := rfl
@[simp] theorem dropSchedule_ibuf (s : State) : (dropSchedule s).ibuf = s.ibuf := rfl
@[simp] theorem dropSchedule_ilen (s : State) : (dropSchedule s).ilen = s.ilen := rfl
@[simp] theorem dropSchedule_obuf (s : State) : (dropSchedule s).obuf = s.obuf := rfl
@[simp] theorem dropSchedule_olen (s : State) : (dropSchedule s).olen = s.olen := rfl
@[simp] theorem dropSchedule_busy (s : State) : (dropSchedule s).busy = s.busy := rfl
@[simp] theorem dropSchedule_done (s : State) : (dropSchedule s).done = s.done := rfl
@[simp] theorem dropSchedule_err (s : State) : (dropSchedule s).err = s.err := rfl
@[simp] theorem dropSchedule_errcode (s : State) : (dropSchedule s).errcode = s.errcode := rfl
@[simp] theorem dropSchedule_opc (s : State) : (dropSchedule s).opc = s.opc := rfl
@[simp] theorem dropSchedule_seq (s : State) : (dropSchedule s).seq = s.seq := rfl
@[simp] theorem dropSchedule_cfg (s : State) : (dropSchedule s).cfg = s.cfg := rfl
@[simp] theorem dropSchedule_rngResp (s : State) : (dropSchedule s).rngResp = s.rngResp := rfl
@[simp] theorem dropSchedule_inbox (s : State) : (dropSchedule s).inbox = s.inbox := rfl
@[simp] theorem dropSchedule_reads (s : State) : (dropSchedule s).reads = s.reads := rfl
@[simp] theorem dropSchedule_epoch (s : State) : (dropSchedule s).epoch = s.epoch := rfl
@[simp] theorem dropSchedule_draws (s : State) : (dropSchedule s).draws = s.draws := rfl
@[simp] theorem dropSchedule_capacity (s : State) : capacity (dropSchedule s) = capacity s := rfl
@[simp] theorem dropSchedule_inputLength (s : State) : inputLength (dropSchedule s) = inputLength s := rfl
@[simp] theorem dropSchedule_ibufByte (s : State) (j : Nat) : ibufByte (dropSchedule s) j = ibufByte s j := rfl
@[simp] theorem dropSchedule_obufByte (s : State) (j : Nat) : obufByte (dropSchedule s) j = obufByte s j := rfl
@[simp] theorem dropSchedule_outputLength (s : State) : outputLength (dropSchedule s) = outputLength s := rfl

@[simp] theorem storeResult_key (v : List Byte) (s : State) : (storeResult v s).key = s.key := rfl
@[simp] theorem storeResult_klen (v : List Byte) (s : State) : (storeResult v s).klen = s.klen := rfl
@[simp] theorem storeResult_rk (v : List Byte) (s : State) : (storeResult v s).rk = s.rk := rfl
@[simp] theorem storeResult_kvalid (v : List Byte) (s : State) : (storeResult v s).kvalid = s.kvalid := rfl
@[simp] theorem storeResult_sreg (v : List Byte) (s : State) : (storeResult v s).sreg = s.sreg := rfl
@[simp] theorem storeResult_cv (v : List Byte) (s : State) : (storeResult v s).cv = s.cv := rfl
@[simp] theorem storeResult_ibuf (v : List Byte) (s : State) : (storeResult v s).ibuf = s.ibuf := rfl
@[simp] theorem storeResult_ilen (v : List Byte) (s : State) : (storeResult v s).ilen = s.ilen := rfl
@[simp] theorem storeResult_obuf (v : List Byte) (s : State) : (storeResult v s).obuf = (Memory.zeros (capacity s)).writeBytes 0 v := rfl
@[simp] theorem storeResult_olen (v : List Byte) (s : State) : (storeResult v s).olen = BitVec.ofNat 16 v.length := rfl
@[simp] theorem storeResult_busy (v : List Byte) (s : State) : (storeResult v s).busy = s.busy := rfl
@[simp] theorem storeResult_done (v : List Byte) (s : State) : (storeResult v s).done = s.done := rfl
@[simp] theorem storeResult_err (v : List Byte) (s : State) : (storeResult v s).err = s.err := rfl
@[simp] theorem storeResult_errcode (v : List Byte) (s : State) : (storeResult v s).errcode = s.errcode := rfl
@[simp] theorem storeResult_opc (v : List Byte) (s : State) : (storeResult v s).opc = s.opc := rfl
@[simp] theorem storeResult_seq (v : List Byte) (s : State) : (storeResult v s).seq = s.seq := rfl
@[simp] theorem storeResult_cfg (v : List Byte) (s : State) : (storeResult v s).cfg = s.cfg := rfl
@[simp] theorem storeResult_rngResp (v : List Byte) (s : State) : (storeResult v s).rngResp = s.rngResp := rfl
@[simp] theorem storeResult_inbox (v : List Byte) (s : State) : (storeResult v s).inbox = s.inbox := rfl
@[simp] theorem storeResult_reads (v : List Byte) (s : State) : (storeResult v s).reads = s.reads := rfl
@[simp] theorem storeResult_epoch (v : List Byte) (s : State) : (storeResult v s).epoch = s.epoch := rfl
@[simp] theorem storeResult_draws (v : List Byte) (s : State) : (storeResult v s).draws = s.draws := rfl
@[simp] theorem storeResult_capacity (v : List Byte) (s : State) : capacity (storeResult v s) = capacity s := rfl
@[simp] theorem storeResult_inputLength (v : List Byte) (s : State) : inputLength (storeResult v s) = inputLength s := rfl
@[simp] theorem storeResult_ibufByte (v : List Byte) (s : State) (j : Nat) : ibufByte (storeResult v s) j = ibufByte s j := rfl

@[simp] theorem clearWorking_key (s : State) : (clearWorking s).key = s.key := rfl
@[simp] theorem clearWorking_klen (s : State) : (clearWorking s).klen = s.klen := rfl
@[simp] theorem clearWorking_rk (s : State) : (clearWorking s).rk = s.rk := rfl
@[simp] theorem clearWorking_kvalid (s : State) : (clearWorking s).kvalid = s.kvalid := rfl
@[simp] theorem clearWorking_sreg (s : State) : (clearWorking s).sreg = Block.zero := rfl
@[simp] theorem clearWorking_cv (s : State) : (clearWorking s).cv = Block.zero := rfl
@[simp] theorem clearWorking_ibuf (s : State) : (clearWorking s).ibuf = s.ibuf := rfl
@[simp] theorem clearWorking_ilen (s : State) : (clearWorking s).ilen = s.ilen := rfl
@[simp] theorem clearWorking_obuf (s : State) : (clearWorking s).obuf = s.obuf := rfl
@[simp] theorem clearWorking_olen (s : State) : (clearWorking s).olen = s.olen := rfl
@[simp] theorem clearWorking_busy (s : State) : (clearWorking s).busy = s.busy := rfl
@[simp] theorem clearWorking_done (s : State) : (clearWorking s).done = s.done := rfl
@[simp] theorem clearWorking_err (s : State) : (clearWorking s).err = s.err := rfl
@[simp] theorem clearWorking_errcode (s : State) : (clearWorking s).errcode = s.errcode := rfl
@[simp] theorem clearWorking_opc (s : State) : (clearWorking s).opc = s.opc := rfl
@[simp] theorem clearWorking_seq (s : State) : (clearWorking s).seq = s.seq := rfl
@[simp] theorem clearWorking_cfg (s : State) : (clearWorking s).cfg = s.cfg := rfl
@[simp] theorem clearWorking_rngResp (s : State) : (clearWorking s).rngResp = s.rngResp := rfl
@[simp] theorem clearWorking_inbox (s : State) : (clearWorking s).inbox = s.inbox := rfl
@[simp] theorem clearWorking_reads (s : State) : (clearWorking s).reads = s.reads := rfl
@[simp] theorem clearWorking_epoch (s : State) : (clearWorking s).epoch = s.epoch := rfl
@[simp] theorem clearWorking_draws (s : State) : (clearWorking s).draws = s.draws := rfl
@[simp] theorem clearWorking_capacity (s : State) : capacity (clearWorking s) = capacity s := rfl
@[simp] theorem clearWorking_inputLength (s : State) : inputLength (clearWorking s) = inputLength s := rfl
@[simp] theorem clearWorking_ibufByte (s : State) (j : Nat) : ibufByte (clearWorking s) j = ibufByte s j := rfl
@[simp] theorem clearWorking_obufByte (s : State) (j : Nat) : obufByte (clearWorking s) j = obufByte s j := rfl
@[simp] theorem clearWorking_outputLength (s : State) : outputLength (clearWorking s) = outputLength s := rfl

@[simp] theorem finishMessage_key (v : List Byte) (s : State) : (finishMessage v s).key = s.key := rfl
@[simp] theorem finishMessage_klen (v : List Byte) (s : State) : (finishMessage v s).klen = s.klen := rfl
@[simp] theorem finishMessage_rk (v : List Byte) (s : State) : (finishMessage v s).rk = s.rk := rfl
@[simp] theorem finishMessage_kvalid (v : List Byte) (s : State) : (finishMessage v s).kvalid = s.kvalid := rfl
@[simp] theorem finishMessage_sreg (v : List Byte) (s : State) : (finishMessage v s).sreg = Block.zero := rfl
@[simp] theorem finishMessage_cv (v : List Byte) (s : State) : (finishMessage v s).cv = Block.zero := rfl
@[simp] theorem finishMessage_ibuf (v : List Byte) (s : State) : (finishMessage v s).ibuf = s.ibuf := rfl
@[simp] theorem finishMessage_ilen (v : List Byte) (s : State) : (finishMessage v s).ilen = s.ilen := rfl
@[simp] theorem finishMessage_obuf (v : List Byte) (s : State) : (finishMessage v s).obuf = (Memory.zeros (capacity s)).writeBytes 0 v := rfl
@[simp] theorem finishMessage_olen (v : List Byte) (s : State) : (finishMessage v s).olen = BitVec.ofNat 16 v.length := rfl
@[simp] theorem finishMessage_busy (v : List Byte) (s : State) : (finishMessage v s).busy = false := rfl
@[simp] theorem finishMessage_done (v : List Byte) (s : State) : (finishMessage v s).done = true := rfl
@[simp] theorem finishMessage_err (v : List Byte) (s : State) : (finishMessage v s).err = s.err := rfl
@[simp] theorem finishMessage_errcode (v : List Byte) (s : State) : (finishMessage v s).errcode = s.errcode := rfl
@[simp] theorem finishMessage_opc (v : List Byte) (s : State) : (finishMessage v s).opc = s.opc := rfl
@[simp] theorem finishMessage_seq (v : List Byte) (s : State) : (finishMessage v s).seq = .idle := rfl
@[simp] theorem finishMessage_cfg (v : List Byte) (s : State) : (finishMessage v s).cfg = s.cfg := rfl
@[simp] theorem finishMessage_rngResp (v : List Byte) (s : State) : (finishMessage v s).rngResp = s.rngResp := rfl
@[simp] theorem finishMessage_inbox (v : List Byte) (s : State) : (finishMessage v s).inbox = s.inbox := rfl
@[simp] theorem finishMessage_reads (v : List Byte) (s : State) : (finishMessage v s).reads = s.reads := rfl
@[simp] theorem finishMessage_epoch (v : List Byte) (s : State) : (finishMessage v s).epoch = s.epoch := rfl
@[simp] theorem finishMessage_draws (v : List Byte) (s : State) : (finishMessage v s).draws = s.draws := rfl
@[simp] theorem finishMessage_capacity (v : List Byte) (s : State) : capacity (finishMessage v s) = capacity s := rfl
@[simp] theorem finishMessage_inputLength (v : List Byte) (s : State) : inputLength (finishMessage v s) = inputLength s := rfl
@[simp] theorem finishMessage_ibufByte (v : List Byte) (s : State) (j : Nat) : ibufByte (finishMessage v s) j = ibufByte s j := rfl

@[simp] theorem respond_key (a : BitVec 16) (d : Byte) (s : State) : (respond a d s).key = s.key := rfl
@[simp] theorem respond_klen (a : BitVec 16) (d : Byte) (s : State) : (respond a d s).klen = s.klen := rfl
@[simp] theorem respond_rk (a : BitVec 16) (d : Byte) (s : State) : (respond a d s).rk = s.rk := rfl
@[simp] theorem respond_kvalid (a : BitVec 16) (d : Byte) (s : State) : (respond a d s).kvalid = s.kvalid := rfl
@[simp] theorem respond_sreg (a : BitVec 16) (d : Byte) (s : State) : (respond a d s).sreg = s.sreg := rfl
@[simp] theorem respond_cv (a : BitVec 16) (d : Byte) (s : State) : (respond a d s).cv = s.cv := rfl
@[simp] theorem respond_ibuf (a : BitVec 16) (d : Byte) (s : State) : (respond a d s).ibuf = s.ibuf := rfl
@[simp] theorem respond_ilen (a : BitVec 16) (d : Byte) (s : State) : (respond a d s).ilen = s.ilen := rfl
@[simp] theorem respond_obuf (a : BitVec 16) (d : Byte) (s : State) : (respond a d s).obuf = s.obuf := rfl
@[simp] theorem respond_olen (a : BitVec 16) (d : Byte) (s : State) : (respond a d s).olen = s.olen := rfl
@[simp] theorem respond_busy (a : BitVec 16) (d : Byte) (s : State) : (respond a d s).busy = s.busy := rfl
@[simp] theorem respond_done (a : BitVec 16) (d : Byte) (s : State) : (respond a d s).done = s.done := rfl
@[simp] theorem respond_err (a : BitVec 16) (d : Byte) (s : State) : (respond a d s).err = s.err := rfl
@[simp] theorem respond_errcode (a : BitVec 16) (d : Byte) (s : State) : (respond a d s).errcode = s.errcode := rfl
@[simp] theorem respond_opc (a : BitVec 16) (d : Byte) (s : State) : (respond a d s).opc = s.opc := rfl
@[simp] theorem respond_seq (a : BitVec 16) (d : Byte) (s : State) : (respond a d s).seq = s.seq := rfl
@[simp] theorem respond_cfg (a : BitVec 16) (d : Byte) (s : State) : (respond a d s).cfg = s.cfg := rfl
@[simp] theorem respond_rngResp (a : BitVec 16) (d : Byte) (s : State) : (respond a d s).rngResp = s.rngResp := rfl
@[simp] theorem respond_inbox (a : BitVec 16) (d : Byte) (s : State) : (respond a d s).inbox = s.inbox := rfl
@[simp] theorem respond_reads (a : BitVec 16) (d : Byte) (s : State) : (respond a d s).reads = (a, d) :: s.reads := rfl
@[simp] theorem respond_epoch (a : BitVec 16) (d : Byte) (s : State) : (respond a d s).epoch = s.epoch := rfl
@[simp] theorem respond_draws (a : BitVec 16) (d : Byte) (s : State) : (respond a d s).draws = s.draws := rfl
@[simp] theorem respond_capacity (a : BitVec 16) (d : Byte) (s : State) : capacity (respond a d s) = capacity s := rfl
@[simp] theorem respond_inputLength (a : BitVec 16) (d : Byte) (s : State) : inputLength (respond a d s) = inputLength s := rfl
@[simp] theorem respond_ibufByte (a : BitVec 16) (d : Byte) (s : State) (j : Nat) : ibufByte (respond a d s) j = ibufByte s j := rfl
@[simp] theorem respond_obufByte (a : BitVec 16) (d : Byte) (s : State) (j : Nat) : obufByte (respond a d s) j = obufByte s j := rfl
@[simp] theorem respond_outputLength (a : BitVec 16) (d : Byte) (s : State) : outputLength (respond a d s) = outputLength s := rfl

@[simp] theorem resetEngine_key (s : State) : (resetEngine s).key = Block.zero := rfl
@[simp] theorem resetEngine_klen (s : State) : (resetEngine s).klen = 0 := rfl
@[simp] theorem resetEngine_rk (s : State) : (resetEngine s).rk = zeroSchedule := rfl
@[simp] theorem resetEngine_kvalid (s : State) : (resetEngine s).kvalid = false := rfl
@[simp] theorem resetEngine_sreg (s : State) : (resetEngine s).sreg = Block.zero := rfl
@[simp] theorem resetEngine_cv (s : State) : (resetEngine s).cv = Block.zero := rfl
@[simp] theorem resetEngine_ibuf (s : State) : (resetEngine s).ibuf = [] := rfl
@[simp] theorem resetEngine_ilen (s : State) : (resetEngine s).ilen = 0 := rfl
@[simp] theorem resetEngine_obuf (s : State) : (resetEngine s).obuf = [] := rfl
@[simp] theorem resetEngine_olen (s : State) : (resetEngine s).olen = 0 := rfl
@[simp] theorem resetEngine_busy (s : State) : (resetEngine s).busy = false := rfl
@[simp] theorem resetEngine_done (s : State) : (resetEngine s).done = false := rfl
@[simp] theorem resetEngine_err (s : State) : (resetEngine s).err = false := rfl
@[simp] theorem resetEngine_errcode (s : State) : (resetEngine s).errcode = 0 := rfl
@[simp] theorem resetEngine_opc (s : State) : (resetEngine s).opc = 0 := rfl
@[simp] theorem resetEngine_seq (s : State) : (resetEngine s).seq = .idle := rfl
@[simp] theorem resetEngine_cfg (s : State) : (resetEngine s).cfg = s.cfg := rfl
@[simp] theorem resetEngine_rngResp (s : State) : (resetEngine s).rngResp = none := rfl
@[simp] theorem resetEngine_inbox (s : State) : (resetEngine s).inbox = s.inbox := rfl
@[simp] theorem resetEngine_reads (s : State) : (resetEngine s).reads = s.reads := rfl
@[simp] theorem resetEngine_epoch (s : State) : (resetEngine s).epoch = s.epoch + 1 := rfl
@[simp] theorem resetEngine_draws (s : State) : (resetEngine s).draws = s.draws := rfl

@[simp] theorem resetOf_key (c : Config) : (State.resetOf c).key = Block.zero := rfl
@[simp] theorem resetOf_klen (c : Config) : (State.resetOf c).klen = 0 := rfl
@[simp] theorem resetOf_rk (c : Config) : (State.resetOf c).rk = zeroSchedule := rfl
@[simp] theorem resetOf_kvalid (c : Config) : (State.resetOf c).kvalid = false := rfl
@[simp] theorem resetOf_sreg (c : Config) : (State.resetOf c).sreg = Block.zero := rfl
@[simp] theorem resetOf_cv (c : Config) : (State.resetOf c).cv = Block.zero := rfl
@[simp] theorem resetOf_ibuf (c : Config) : (State.resetOf c).ibuf = [] := rfl
@[simp] theorem resetOf_ilen (c : Config) : (State.resetOf c).ilen = 0 := rfl
@[simp] theorem resetOf_obuf (c : Config) : (State.resetOf c).obuf = [] := rfl
@[simp] theorem resetOf_olen (c : Config) : (State.resetOf c).olen = 0 := rfl
@[simp] theorem resetOf_busy (c : Config) : (State.resetOf c).busy = false := rfl
@[simp] theorem resetOf_done (c : Config) : (State.resetOf c).done = false := rfl
@[simp] theorem resetOf_err (c : Config) : (State.resetOf c).err = false := rfl
@[simp] theorem resetOf_errcode (c : Config) : (State.resetOf c).errcode = 0 := rfl
@[simp] theorem resetOf_opc (c : Config) : (State.resetOf c).opc = 0 := rfl
@[simp] theorem resetOf_seq (c : Config) : (State.resetOf c).seq = .idle := rfl
@[simp] theorem resetOf_cfg (c : Config) : (State.resetOf c).cfg = c := rfl
@[simp] theorem resetOf_rngResp (c : Config) : (State.resetOf c).rngResp = none := rfl
@[simp] theorem resetOf_inbox (c : Config) : (State.resetOf c).inbox = [] := rfl
@[simp] theorem resetOf_reads (c : Config) : (State.resetOf c).reads = [] := rfl
@[simp] theorem resetOf_epoch (c : Config) : (State.resetOf c).epoch = 0 := rfl
@[simp] theorem resetOf_draws (c : Config) : (State.resetOf c).draws = 0 := rfl

end Sys2Proof.Machine
end

