-- ==== Sys2Proof/Laws/Memory.lean ====
section
/-! SUPPORT. The laws of the message buffers: read after write, the canonical form, and equality of canonical buffers. -/

namespace Sys2Proof.Machine

open Sys2Proof

@[simp] theorem Memory.read?_nil (a : Nat) : Memory.read? [] a = none := rfl

theorem Memory.read?_write (m : Memory) (a b : Nat) (v : Byte) :
    (m.write a v).read? b = if a = b then some v else m.read? b := by
  induction m with
  | nil => simp [Memory.write, Memory.read?]
  | cons c m ih =>
    obtain ⟨k, w⟩ := c
    simp only [Memory.write]
    split
    · simp [Memory.read?]
    · split
      · subst_vars; simp only [Memory.read?]; split <;> simp_all
      · simp only [Memory.read?, ih]
        by_cases hk : k = b
        · subst hk; simp [*]
        · simp [hk]

@[simp] theorem Memory.read?_write_same (m : Memory) (a : Nat) (v : Byte) : (m.write a v).read? a = some v := by
  simp [Memory.read?_write]

theorem Memory.read?_write_other (m : Memory) (a b : Nat) (v : Byte) (h : a ≠ b) :
    (m.write a v).read? b = m.read? b := by
  simp [Memory.read?_write, h]

/-- Every offset of the canonical form of a non-empty buffer is above the first one. -/
theorem Memory.read?_lt_head (k : Nat) (w : Byte) (m : Memory) (h : Memory.wf ((k, w) :: m) = true) (a : Nat)
    (ha : a < k) : m.read? a = none := by
  induction m generalizing k w with
  | nil => rfl
  | cons c m ih =>
    obtain ⟨k', w'⟩ := c
    simp only [Memory.wf, Bool.and_eq_true, decide_eq_true_eq] at h
    simp only [Memory.read?]
    rw [if_neg (by omega)]
    exact ih k' w' h.2 (by omega)

theorem Memory.read?_head_tail (k : Nat) (w : Byte) (m : Memory) (h : Memory.wf ((k, w) :: m) = true) :
    m.read? k = none := by
  cases m with
  | nil => rfl
  | cons c m =>
    obtain ⟨k', w'⟩ := c
    simp only [Memory.wf, Bool.and_eq_true, decide_eq_true_eq] at h
    simp only [Memory.read?]
    rw [if_neg (by omega)]
    exact Memory.read?_lt_head k' w' m h.2 k h.1

theorem Memory.wf_tail (c : Host.Cell) (m : Memory) (h : Memory.wf (c :: m) = true) : Memory.wf m = true := by
  cases m with
  | nil => rfl
  | cons d m =>
    obtain ⟨k, w⟩ := c
    obtain ⟨k', w'⟩ := d
    simp only [Memory.wf, Bool.and_eq_true] at h
    exact h.2

/-- A write keeps the canonical form. -/
theorem Memory.wf_write (m : Memory) (a : Nat) (v : Byte) (h : m.wf = true) : (m.write a v).wf = true := by
  induction m with
  | nil => rfl
  | cons c m ih =>
    obtain ⟨k, w⟩ := c
    simp only [Memory.write]
    split
    · simp only [Memory.wf, Bool.and_eq_true, decide_eq_true_eq]; exact ⟨by omega, h⟩
    · split
      · subst_vars
        cases m with
        | nil => rfl
        | cons d m => obtain ⟨k', w'⟩ := d; simpa [Memory.wf] using h
      · have ht := ih (Memory.wf_tail _ _ h)
        cases m with
        | nil => simp [Memory.write, Memory.wf]; omega
        | cons d m =>
          obtain ⟨k', w'⟩ := d
          simp only [Memory.wf, Bool.and_eq_true, decide_eq_true_eq] at h
          simp only [Memory.write] at ht ⊢
          split
          · rename_i h3
            simp only [h3, if_true] at ht
            simp only [Memory.wf, Bool.and_eq_true, decide_eq_true_eq]
            exact ⟨by omega, h3, h.2⟩
          · rename_i h3
            simp only [h3, if_false] at ht
            split
            · rename_i h4
              subst h4
              simp only [if_true] at ht
              simp only [Memory.wf, Bool.and_eq_true, decide_eq_true_eq]
              exact ⟨by omega, ht⟩
            · rename_i h4
              simp only [h4, if_false] at ht
              simp only [Memory.wf, Bool.and_eq_true, decide_eq_true_eq]
              exact ⟨h.1, ht⟩

/-- A write at an existing offset lists only existing offsets. -/
theorem Memory.within_write (m : Memory) (a cap : Nat) (v : Byte) (ha : a < cap) (h : m.within cap = true) :
    (m.write a v).within cap = true := by
  induction m with
  | nil => simp [Memory.write, Memory.within, ha]
  | cons c m ih =>
    obtain ⟨k, w⟩ := c
    simp only [Memory.within, List.all_cons, Bool.and_eq_true, decide_eq_true_eq] at h ih
    simp only [Memory.write]
    split
    · simp only [Memory.within, List.all_cons, Bool.and_eq_true, decide_eq_true_eq]; exact ⟨ha, h⟩
    · split
      · simp only [Memory.within, List.all_cons, Bool.and_eq_true, decide_eq_true_eq]; exact ⟨ha, h.2⟩
      · simp only [Memory.within, List.all_cons, Bool.and_eq_true, decide_eq_true_eq]
        exact ⟨h.1, ih h.2⟩

theorem Memory.read?_writeBytes (m : Memory) (off : Nat) (vs : List Byte) (b : Nat) :
    (m.writeBytes off vs).read? b =
      if off ≤ b ∧ b < off + vs.length then some (vs.getD (b - off) 0) else m.read? b := by
  induction vs generalizing m off with
  | nil =>
    simp only [Memory.writeBytes, List.length_nil]
    rw [if_neg (by omega)]
  | cons v vs ih =>
    simp only [Memory.writeBytes, ih, Memory.read?_write, List.length_cons]
    by_cases h1 : off + 1 ≤ b ∧ b < off + 1 + vs.length
    · rw [if_pos h1, if_pos (by omega)]
      congr 1
      obtain ⟨d, rfl⟩ : ∃ d, b = off + 1 + d := ⟨b - (off + 1), by omega⟩
      have e1 : off + 1 + d - (off + 1) = d := by omega
      have e2 : off + 1 + d - off = d + 1 := by omega
      rw [e1, e2, List.getD_cons_succ]
    · rw [if_neg h1]
      by_cases h2 : off = b
      · subst h2; simp
      · rw [if_neg h2, if_neg (by omega)]

theorem Memory.wf_writeBytes (m : Memory) (off : Nat) (vs : List Byte) (h : m.wf = true) :
    (m.writeBytes off vs).wf = true := by
  induction vs generalizing m off with
  | nil => exact h
  | cons v vs ih => exact ih _ _ (Memory.wf_write _ _ _ h)

theorem Memory.within_writeBytes (m : Memory) (off cap : Nat) (vs : List Byte) (hv : off + vs.length ≤ cap)
    (h : m.within cap = true) : (m.writeBytes off vs).within cap = true := by
  induction vs generalizing m off with
  | nil => exact h
  | cons v vs ih =>
    simp only [List.length_cons] at hv
    exact ih _ _ (by omega) (Memory.within_write _ _ _ _ (by omega) h)

theorem Memory.read?_map_range' (f : Nat → Byte) (lo n j : Nat) :
    Memory.read? ((List.range' lo n).map fun k => (k, f k)) j = if lo ≤ j ∧ j < lo + n then some (f j) else none := by
  induction n generalizing lo with
  | zero => simp
  | succ n ih =>
    simp only [List.range'_succ, List.map_cons, Memory.read?, ih]
    by_cases h : lo = j
    · subst h; simp
    · rw [if_neg h]
      by_cases h2 : lo + 1 ≤ j ∧ j < lo + 1 + n
      · rw [if_pos h2, if_pos (by omega)]
      · rw [if_neg h2, if_neg (by omega)]

theorem Memory.wf_map_range' (f : Nat → Byte) (lo n : Nat) :
    Memory.wf ((List.range' lo n).map fun k => (k, f k)) = true := by
  induction n generalizing lo with
  | zero => rfl
  | succ n ih =>
    have h := ih (lo + 1)
    cases n with
    | zero => rfl
    | succ n =>
      simp only [List.range'_succ, List.map_cons] at h ⊢
      simp only [Memory.wf, Bool.and_eq_true, decide_eq_true_eq]
      exact ⟨by omega, h⟩

/-- A zeroed buffer reads 0x00 at every offset it has, and has no other. -/
theorem Memory.read?_zeros (cap j : Nat) :
    (Memory.zeros cap).read? j = if j < cap then some 0x00 else none := by
  have := Memory.read?_map_range' (fun _ => (0x00 : Byte)) 0 cap j
  simpa [Memory.zeros, List.range_eq_range'] using this

theorem Memory.wf_zeros (cap : Nat) : (Memory.zeros cap).wf = true := by
  have := Memory.wf_map_range' (fun _ => (0x00 : Byte)) 0 cap
  simpa [Memory.zeros, List.range_eq_range'] using this

theorem Memory.within_zeros (cap : Nat) : (Memory.zeros cap).within cap = true := by
  simp [Memory.zeros, Memory.within]

theorem Memory.read?_isSome_within (m : Memory) (cap j : Nat) (h : m.within cap = true)
    (hj : (m.read? j).isSome = true) : j < cap := by
  induction m with
  | nil => simp at hj
  | cons c m ih =>
    obtain ⟨k, w⟩ := c
    simp only [Memory.within, List.all_cons, Bool.and_eq_true, decide_eq_true_eq] at h ih
    simp only [Memory.read?] at hj
    split at hj
    · subst_vars; exact h.1
    · exact ih h.2 hj

/-- Canonical buffers that read alike are equal. -/
theorem Memory.ext_of_wf (m m' : Memory) (h : m.wf = true) (h' : m'.wf = true)
    (hr : ∀ j, m.read? j = m'.read? j) : m = m' := by
  induction m generalizing m' with
  | nil =>
    cases m' with
    | nil => rfl
    | cons c m' =>
      obtain ⟨k, w⟩ := c
      have := hr k
      simp [Memory.read?] at this
  | cons c m ih =>
    obtain ⟨k, w⟩ := c
    cases m' with
    | nil =>
      have := hr k
      simp [Memory.read?] at this
    | cons c' m' =>
      obtain ⟨k', w'⟩ := c'
      have hk : k = k' := by
        have h1 := hr k
        have h2 := hr k'
        simp only [Memory.read?] at h1 h2
        rcases Nat.lt_trichotomy k k' with hlt | heq | hgt
        · rw [if_pos trivial, if_neg (by omega), Memory.read?_lt_head k' w' m' h' k hlt] at h1
          simp at h1
        · exact heq
        · rw [if_pos trivial, if_neg (by omega), Memory.read?_lt_head k w m h k' hgt] at h2
          simp at h2
      subst hk
      have hw : w = w' := by
        have h1 := hr k
        simpa [Memory.read?] using h1
      subst hw
      congr 1
      refine ih m' (Memory.wf_tail _ _ h) (Memory.wf_tail _ _ h') fun j => ?_
      have h1 := hr j
      simp only [Memory.read?] at h1
      by_cases hj : k = j
      · subst hj
        rw [Memory.read?_head_tail k w m h, Memory.read?_head_tail k w m' h']
      · simpa [hj] using h1

end Sys2Proof.Machine
end

