-- ==== Sys2Proof/Laws/Exec.lean ====
section
/-! SUPPORT. What a completion step can do, said once: the shared operations, and the shapes of every command. -/

namespace Sys2Proof.Machine

open Sys2Proof

theorem capacity_le (s : State) : capacity s ≤ 16384 := by
  have := s.cfg.extraBlocks.isLt
  simp [capacity, Config.bufBytes]; omega

theorem le_capacity (s : State) : 48 ≤ capacity s := by simp [capacity, Config.bufBytes]

/-- Error entry: everything it does (`60_exceptions.md` R270). -/
theorem raise_endedInError (e : ErrKind) (s : State) : EndedInError e s (raise e s) := by
  refine ⟨rfl, rfl, rfl, fun j hj => ?_, rfl, rfl, rfl, rfl, rfl, ⟨rfl, rfl, rfl, fun _ => rfl⟩,
    ⟨rfl, rfl, rfl, rfl, rfl, rfl⟩, rfl⟩
  simp [obufByte, Memory.read?_zeros, hj]

theorem raise_keepsSchedule (e : ErrKind) (s : State) : KeepsSchedule s (raise e s) := ⟨rfl, rfl⟩

/-- A unit command: everything it does. -/
theorem unitCommand_next (f : Block → Block) (s : State) :
    unitCommand f s = .next (complete { s with sreg := f s.sreg }) := rfl

/-- A completed command on `S` keeps everything else. -/
theorem onlyBlockRegister_complete (s : State) (b : Block) :
    OnlyBlockRegister s (complete { s with sreg := b }) :=
  ⟨⟨rfl, rfl, rfl, rfl, rfl⟩, ⟨rfl, rfl, rfl, fun _ => rfl⟩, ⟨rfl, rfl⟩, ⟨rfl, fun _ => rfl⟩,
    ⟨rfl, rfl, rfl, rfl, rfl, rfl⟩, rfl, rfl⟩

theorem keyedCommand_loaded (f : Block → Vector Block 11 → Block) (s : State) (h : s.kvalid = true) :
    keyedCommand f s = .next (complete { s with sreg := f s.sreg s.rk }) := by simp [keyedCommand, h]

theorem keyedCommand_notLoaded (f : Block → Vector Block 11 → Block) (s : State) (h : s.kvalid = false) :
    keyedCommand f s = .next (raise .keyNotLoaded s) := by simp [keyedCommand, h]

/-- OBUF after a result has been stored in it. -/
theorem storeResult_read? (v : List Byte) (s : State) (j : Nat) :
    (storeResult v s).obuf.read? j =
      if j < v.length then some (v.getD j 0) else if j < capacity s then some 0x00 else none := by
  simp [Memory.read?_writeBytes, Memory.read?_zeros]

/-- A stored result that fits: OBUF holds it and 0x00 after it, and OLEN is its length (R221). -/
theorem storeResult_outputIs (v : List Byte) (s : State) (hv : v.length ≤ capacity s) :
    OutputIs v s (storeResult v s) := by
  have hc := capacity_le s
  refine ⟨?_, fun j hj => ?_, fun j hj hc => ?_⟩
  · simp [outputLength]; omega
  · simp only [obufByte, storeResult_read?, hj, if_true]
  · simp only [obufByte, storeResult_read?]
    rw [if_neg (by omega), if_pos hc]

/-- A message command that succeeds: everything it does (R221). -/
theorem finishMessage_messageDone (v : List Byte) (s : State) (r : Option Block) (hv : v.length ≤ capacity s) :
    MessageDone v s (finishMessage v { s with rngResp := r }) :=
  ⟨storeResult_outputIs v s hv, rfl, rfl, ⟨rfl, rfl, rfl, rfl, rfl⟩, ⟨rfl, rfl, rfl, fun _ => rfl⟩, ⟨rfl, rfl⟩,
    ⟨rfl, rfl, rfl, rfl, rfl, rfl⟩⟩

/-- Every shape the completion step of a command can have. -/
inductive ExecShape (i : Instr) (s : State) : State → Prop where
  /-- Error entry; an ENC.CBC ends so only when its checks say so. -/
  | error (e : ErrKind) (h : i ≠ .keyload) (hc : i = .encCbc → encryptCheck .cbc s = some e) : ExecShape i s (raise e s)
  /-- KEYLOAD with a wrong key length. -/
  | keyLength (h : i = .keyload) (hk : s.klen ≠ 16) : ExecShape i s (raise .invalidKeyLength (dropSchedule s))
  /-- KEYLOAD. -/
  | keyload (h : i = .keyload) (hk : s.klen = 16) :
      ExecShape i s (complete { s with rk := expand s.key, kvalid := true })
  /-- A command on `S`. -/
  | block (b : Block) (h : i ≠ .keyload) : ExecShape i s (complete { s with sreg := b })
  /-- PAD and UNPAD. -/
  | output (v : List Byte) (h : i = .pad ∨ i = .unpad) (hv : v.length ≤ capacity s) :
      ExecShape i s (complete (storeResult v s))
  /-- A message command; an ENC.CBC uses up its draw. -/
  | message (v : List Byte) (r : Option Block) (h : i ≠ .keyload) (hv : v.length ≤ capacity s)
      (hr : r = if i = .encCbc then none else s.rngResp) : ExecShape i s (finishMessage v { s with rngResp := r })
  /-- ENC.CBC whose draw has not been answered. -/
  | waiting (h : i = .encCbc) (hc : encryptCheck .cbc s = none) (hr : s.rngResp = none) : ExecShape i s s

theorem encryptCheck_none (mode : Mode) (s : State) (h : encryptCheck mode s = none) :
    s.kvalid = true ∧ encryptedLength mode (inputLength s) ≤ capacity s := by
  unfold encryptCheck at h
  repeat' split at h
  all_goals first
    | (simp at h; done)
    | (rename_i h1 h2; exact ⟨by simpa using h1, by omega⟩)

theorem decryptCheck_none (s : State) (h : decryptCheck s = none) :
    s.kvalid = true ∧ inputLength s ≤ capacity s ∧ badCiphertextLength (inputLength s) = false := by
  unfold decryptCheck at h
  repeat' split at h
  all_goals first
    | (simp at h; done)
    | (rename_i h1 h2 h3; exact ⟨by simpa using h1, by omega, by simpa using h3⟩)

theorem encryptMessage_fits (mode : Mode) (s : State) (iv : Block) (h : encryptCheck mode s = none) :
    (encryptMessage (inputBytes s) s.rk mode iv).length ≤ capacity s := by
  rw [encryptMessage_length_eq, inputBytes_length]
  exact (encryptCheck_none mode s h).2

theorem decryptCommand_shape (i : Instr) (mode : Mode) (s : State) (h1 : i ≠ .keyload) (h2 : i ≠ .encCbc) :
    ∃ t, decryptCommand mode s = .next t ∧ ExecShape i s t := by
  unfold decryptCommand
  split
  · exact ⟨_, rfl, .error _ h1 (by simp [h2])⟩
  · rename_i hc
    split
    · exact ⟨_, rfl, .error _ h1 (by simp [h2])⟩
    · rename_i m hm
      refine ⟨_, rfl, .message m s.rngResp h1 ?_ (by simp [h2])⟩
      have := decryptMessage_length_lt _ _ _ _ hm
      have := (decryptCheck_none s hc).2.1
      simp at *
      omega

/-- The inversion lemma of `exec`: the one place where the meanings are unfolded. -/
theorem exec_shape (i : Instr) (s : State) : ∃ t, exec i s = .next t ∧ ExecShape i s t := by
  have unitShape : ∀ f, i ≠ .keyload → ∃ t, unitCommand f s = .next t ∧ ExecShape i s t :=
    fun f h => ⟨_, rfl, .block _ h⟩
  have keyedShape : ∀ f, i ≠ .keyload → i ≠ .encCbc → ∃ t, keyedCommand f s = .next t ∧ ExecShape i s t := by
    intro f h h2
    unfold keyedCommand
    split
    · exact ⟨_, rfl, .block _ h⟩
    · exact ⟨_, rfl, .error _ h (by simp [h2])⟩
  cases i with
  | keyload =>
    show ∃ t, execKeyload s = .next t ∧ _
    unfold execKeyload
    split
    · exact ⟨_, rfl, .keyload rfl ‹_›⟩
    · exact ⟨_, rfl, .keyLength rfl ‹_›⟩
  | encEcb =>
    show ∃ t, execEncEcb s = .next t ∧ _
    unfold execEncEcb
    split
    · exact ⟨_, rfl, .error _ (by simp) (by simp)⟩
    · exact ⟨_, rfl, .message _ s.rngResp (by simp) (encryptMessage_fits _ _ _ ‹_›) (by simp)⟩
  | encCbc =>
    show ∃ t, execEncCbc s = .next t ∧ _
    unfold execEncCbc
    split
    · exact ⟨_, rfl, .error _ (by simp) fun _ => ‹_›⟩
    · split
      · exact ⟨_, rfl, .waiting rfl ‹_› ‹_›⟩
      · exact ⟨_, rfl, .message _ none (by simp) (encryptMessage_fits _ _ _ ‹_›) (by simp)⟩
  | decEcb => exact decryptCommand_shape _ _ _ (by simp) (by simp)
  | decCbc => exact decryptCommand_shape _ _ _ (by simp) (by simp)
  | blkenc => exact keyedShape _ (by simp) (by simp)
  | blkdec => exact keyedShape _ (by simp) (by simp)
  | subbytes => exact unitShape _ (by simp)
  | invsubbytes => exact unitShape _ (by simp)
  | shiftrows => exact unitShape _ (by simp)
  | invshiftrows => exact unitShape _ (by simp)
  | mixcolumns => exact unitShape _ (by simp)
  | invmixcolumns => exact unitShape _ (by simp)
  | mixcol => exact unitShape _ (by simp)
  | invmixcol => exact unitShape _ (by simp)
  | gfmul => exact unitShape _ (by simp)
  | rotword => exact unitShape _ (by simp)
  | subword => exact unitShape _ (by simp)
  | pad =>
    show ∃ t, execPad s = .next t ∧ _
    unfold execPad
    split
    · exact ⟨_, rfl, .error _ (by simp) (by simp)⟩
    · exact ⟨_, rfl, .output _ (.inl rfl) (by simp [paddedLength] at *; omega)⟩
  | unpad =>
    show ∃ t, execUnpad s = .next t ∧ _
    unfold execUnpad
    split
    · exact ⟨_, rfl, .error _ (by simp) (by simp)⟩
    · split
      · exact ⟨_, rfl, .error _ (by simp) (by simp)⟩
      · split
        · exact ⟨_, rfl, .error _ (by simp) (by simp)⟩
        · rename_i m hm
          refine ⟨_, rfl, .output _ (.inr rfl) ?_⟩
          have := unpad_length_lt _ _ hm
          simp at *
          omega
  | addroundkey k =>
    show ∃ t, execAddroundkey k s = .next t ∧ _
    unfold execAddroundkey
    split
    · exact keyedShape _ (by simp) (by simp)
    · exact ⟨_, rfl, .error _ (by simp) (by simp)⟩

/-- From a next state to its shape. -/
theorem exec_cases (i : Instr) (s t : State) (h : exec i s = .next t) : ExecShape i s t := by
  obtain ⟨u, hu, hs⟩ := exec_shape i s
  rw [hu] at h
  cases h
  exact hs

end Sys2Proof.Machine
end

