-- ==== Sys2Proof/Laws/HostPort.lean ====
section
/-! SUPPORT. The laws of the host port: the address map region by region (`20_memory.md` R61), the length registers, and
what a step does with each event. -/

namespace Sys2Proof.Machine

open Sys2Proof

theorem addr_eq_iff (a : BitVec 16) (n : Nat) (h : n < 65536) : (a = BitVec.ofNat 16 n) ↔ a.toNat = n := by
  constructor
  · rintro rfl
    simp only [BitVec.toNat_ofNat]
    omega
  · intro h1
    apply BitVec.eq_of_toNat_eq
    simp only [BitVec.toNat_ofNat]
    omega

/-- The address map as a function of the address as a number. -/
theorem regionOf_toNat (cap : Nat) (a : BitVec 16) :
    regionOf cap a =
      if a.toNat = 0x0000 then .cmd
      else if a.toNat = 0x0001 then .status
      else if a.toNat = 0x0002 then .errcode
      else if a.toNat = 0x0003 then .klen
      else if a.toNat = 0x0004 then .ilenLo
      else if a.toNat = 0x0005 then .ilenHi
      else if a.toNat = 0x0006 then .olenLo
      else if a.toNat = 0x0007 then .olenHi
      else if 0x0010 ≤ a.toNat ∧ a.toNat ≤ 0x001F then .key (a.toNat - 0x0010)
      else if 0x0020 ≤ a.toNat ∧ a.toNat ≤ 0x002F then .sreg (a.toNat - 0x0020)
      else if 0x4000 ≤ a.toNat ∧ a.toNat < 0x4000 + cap then .ibuf (a.toNat - 0x4000)
      else if 0x8000 ≤ a.toNat ∧ a.toNat < 0x8000 + cap then .obuf (a.toNat - 0x8000)
      else .reserved := by
  have e0 : a = 0x0000#16 ↔ a.toNat = 0 := addr_eq_iff a 0 (by omega)
  have e1 : a = 0x0001#16 ↔ a.toNat = 1 := addr_eq_iff a 1 (by omega)
  have e2 : a = 0x0002#16 ↔ a.toNat = 2 := addr_eq_iff a 2 (by omega)
  have e3 : a = 0x0003#16 ↔ a.toNat = 3 := addr_eq_iff a 3 (by omega)
  have e4 : a = 0x0004#16 ↔ a.toNat = 4 := addr_eq_iff a 4 (by omega)
  have e5 : a = 0x0005#16 ↔ a.toNat = 5 := addr_eq_iff a 5 (by omega)
  have e6 : a = 0x0006#16 ↔ a.toNat = 6 := addr_eq_iff a 6 (by omega)
  have e7 : a = 0x0007#16 ↔ a.toNat = 7 := addr_eq_iff a 7 (by omega)
  unfold regionOf
  simp only [BitVec.ofNat_eq_ofNat, e0, e1, e2, e3, e4, e5, e6, e7]

/-- The named registers below address 8. -/
theorem regionOf_reserved_low (cap : Nat) (a : BitVec 16) (h1 : 0x0008 ≤ a.toNat) (h2 : a.toNat ≤ 0x000F) :
    regionOf cap a = .reserved := by
  rw [regionOf_toNat]
  iterate 12 rw [if_neg (by omega)]

theorem regionOf_key (cap : Nat) (a : BitVec 16) (i : Nat) (hi : i < 16) (h : a.toNat = 0x0010 + i) :
    regionOf cap a = .key i := by
  rw [regionOf_toNat, h]
  iterate 8 rw [if_neg (by omega)]
  rw [if_pos (by omega)]
  congr 1
  omega

theorem regionOf_sreg (cap : Nat) (a : BitVec 16) (i : Nat) (hi : i < 16) (h : a.toNat = 0x0020 + i) :
    regionOf cap a = .sreg i := by
  rw [regionOf_toNat, h]
  iterate 9 rw [if_neg (by omega)]
  rw [if_pos (by omega)]
  congr 1
  omega

theorem regionOf_reserved_mid (cap : Nat) (a : BitVec 16) (h1 : 0x0030 ≤ a.toNat) (h2 : a.toNat ≤ 0x3FFF) :
    regionOf cap a = .reserved := by
  rw [regionOf_toNat]
  iterate 12 rw [if_neg (by omega)]

theorem regionOf_ibuf (cap : Nat) (a : BitVec 16) (j : Nat) (hj : j < cap) (h : a.toNat = 0x4000 + j) :
    regionOf cap a = .ibuf j := by
  rw [regionOf_toNat, h]
  iterate 10 rw [if_neg (by omega)]
  rw [if_pos (by omega), Nat.add_sub_cancel_left]

theorem regionOf_reserved_high (cap : Nat) (a : BitVec 16) (h1 : 0x4000 + cap ≤ a.toNat) (h2 : a.toNat ≤ 0x7FFF) :
    regionOf cap a = .reserved := by
  rw [regionOf_toNat]
  iterate 12 rw [if_neg (by omega)]

theorem regionOf_obuf (cap : Nat) (a : BitVec 16) (j : Nat) (hc : cap ≤ 0x4000) (hj : j < cap)
    (h : a.toNat = 0x8000 + j) : regionOf cap a = .obuf j := by
  rw [regionOf_toNat, h]
  iterate 11 rw [if_neg (by omega)]
  rw [if_pos (by omega), Nat.add_sub_cancel_left]

theorem regionOf_reserved_top (cap : Nat) (a : BitVec 16) (hc : cap ≤ 0x4000) (h1 : 0x8000 + cap ≤ a.toNat) :
    regionOf cap a = .reserved := by
  rw [regionOf_toNat]
  iterate 12 rw [if_neg (by omega)]

theorem ite_eq_cases {α : Type} {c : Prop} [Decidable c] {a b r : α} (h : (if c then a else b) = r) :
    (c ∧ a = r) ∨ (¬ c ∧ b = r) := by
  by_cases hc : c
  · exact .inl ⟨hc, by rw [if_pos hc] at h; exact h⟩
  · exact .inr ⟨hc, by rw [if_neg hc] at h; exact h⟩

/-- The address map only names bytes that exist. -/
theorem regionOf_bounds (cap : Nat) (a : BitVec 16) :
    (∀ i, regionOf cap a = .key i → i < 16) ∧ (∀ i, regionOf cap a = .sreg i → i < 16) ∧
      (∀ j, regionOf cap a = .ibuf j → j < cap) ∧ (∀ j, regionOf cap a = .obuf j → j < cap) := by
  rw [regionOf_toNat]
  refine ⟨fun i h => ?_, fun i h => ?_, fun i h => ?_, fun i h => ?_⟩ <;>
    ((iterate 12
        (obtain ⟨c, e⟩ | ⟨-, h⟩ := ite_eq_cases h
         · injection e <;> omega)); injection h)

@[simp] theorem lowByte_toNat (v : BitVec 16) : (lowByte v).toNat = v.toNat % 256 := by simp [lowByte]

@[simp] theorem highByte_toNat (v : BitVec 16) : (highByte v).toNat = v.toNat / 256 := by
  have := v.isLt
  simp only [highByte, BitVec.extractLsb'_toNat, Nat.shiftRight_eq_div_pow]
  omega

theorem append_toNat (h l : Byte) : (h ++ l).toNat = 256 * h.toNat + l.toNat := by
  have := l.isLt
  have e : (h ++ l).toNat = h.toNat <<< 8 ||| l.toNat := BitVec.toNat_append ..
  rw [e, ← Nat.shiftLeft_add_eq_or_of_lt (by omega), Nat.shiftLeft_eq]
  omega

@[simp] theorem setLowByte_toNat (v : BitVec 16) (d : Byte) :
    (setLowByte v d).toNat = 256 * (v.toNat / 256) + d.toNat := by
  have h := append_toNat (highByte v) d
  rw [highByte_toNat] at h
  exact h

@[simp] theorem setHighByte_toNat (v : BitVec 16) (d : Byte) :
    (setHighByte v d).toNat = 256 * d.toNat + v.toNat % 256 := by
  have h := append_toNat d (lowByte v)
  rw [lowByte_toNat] at h
  exact h

theorem step_of_empty (s : State) (h : s.inbox = []) : step s = engineTurn s := by simp [step, h]

theorem step_of_event (s : State) (e : Event) (rest : List Event) (h : s.inbox = e :: rest) :
    step s = deliver e { s with inbox := rest } := by simp [step, h]

/-- A step that is the engine's turn. -/
theorem step_of_turn (s : State) (rest : List Event) (h : TurnIsNext s rest) :
    step s = engineTurn { s with inbox := rest } := by
  obtain ⟨h, rfl⟩ | h := h
  · rw [step_of_empty s h, ← h]
  · exact step_of_event s .engine rest h

/-- Everything the engine's turn can do. -/
theorem engineTurn_shape (s : State) :
    ∃ t, engineTurn s = .next t ∧
      ((s.busy = false ∧ t = s) ∨ (s.busy = true ∧ (∃ e, decode s.opc = .error e) ∧ t = raise .illegalCommand s) ∨
        (s.busy = true ∧ ∃ i, decode s.opc = .ok i ∧ ExecShape i s t)) := by
  unfold engineTurn
  cases hb : s.busy with
  | false => exact ⟨s, rfl, .inl ⟨rfl, rfl⟩⟩
  | true =>
    cases hd : decode s.opc with
    | ok i =>
      obtain ⟨t, ht, hs⟩ := exec_shape i s
      exact ⟨t, ht, .inr (.inr ⟨rfl, i, rfl, hs⟩)⟩
    | error e => exact ⟨_, rfl, .inr (.inl ⟨rfl, ⟨e, rfl⟩, rfl⟩)⟩

end Sys2Proof.Machine
end

