-- ==== Sys2Proof/Laws/PerInstr.lean ====
section
/-! SUPPORT. What is said of every command as syntax: its byte matches its row of the opcode table
(`30_encoding.md` R100, `opcode_table.json`). -/

namespace Sys2Proof.Laws.Encoding

open Sys2Proof

/-- The row of the opcode table of a command: (mask, match). -/
def row : Instr → Byte × Byte
  | .keyload => (0xFF, 0x01)
  | .encEcb => (0xFF, 0x10)
  | .encCbc => (0xFF, 0x11)
  | .decEcb => (0xFF, 0x12)
  | .decCbc => (0xFF, 0x13)
  | .blkenc => (0xFF, 0x20)
  | .blkdec => (0xFF, 0x21)
  | .subbytes => (0xFF, 0x30)
  | .invsubbytes => (0xFF, 0x31)
  | .shiftrows => (0xFF, 0x32)
  | .invshiftrows => (0xFF, 0x33)
  | .mixcolumns => (0xFF, 0x34)
  | .invmixcolumns => (0xFF, 0x35)
  | .mixcol => (0xFF, 0x40)
  | .invmixcol => (0xFF, 0x41)
  | .gfmul => (0xFF, 0x42)
  | .rotword => (0xFF, 0x43)
  | .subword => (0xFF, 0x44)
  | .pad => (0xFF, 0x50)
  | .unpad => (0xFF, 0x51)
  | .addroundkey _ => (0xF0, 0x60)

/-- The command byte has the fixed bits of its row. -/
def Statement (i : Instr) : Prop := i.wellFormed = true → encode i &&& (row i).1 = (row i).2

theorem keyload : Statement .keyload := by unfold Statement; decide
theorem encEcb : Statement .encEcb := by unfold Statement; decide
theorem encCbc : Statement .encCbc := by unfold Statement; decide
theorem decEcb : Statement .decEcb := by unfold Statement; decide
theorem decCbc : Statement .decCbc := by unfold Statement; decide
theorem blkenc : Statement .blkenc := by unfold Statement; decide
theorem blkdec : Statement .blkdec := by unfold Statement; decide
theorem subbytes : Statement .subbytes := by unfold Statement; decide
theorem invsubbytes : Statement .invsubbytes := by unfold Statement; decide
theorem shiftrows : Statement .shiftrows := by unfold Statement; decide
theorem invshiftrows : Statement .invshiftrows := by unfold Statement; decide
theorem mixcolumns : Statement .mixcolumns := by unfold Statement; decide
theorem invmixcolumns : Statement .invmixcolumns := by unfold Statement; decide
theorem mixcol : Statement .mixcol := by unfold Statement; decide
theorem invmixcol : Statement .invmixcol := by unfold Statement; decide
theorem gfmul : Statement .gfmul := by unfold Statement; decide
theorem rotword : Statement .rotword := by unfold Statement; decide
theorem subword : Statement .subword := by unfold Statement; decide
theorem pad : Statement .pad := by unfold Statement; decide
theorem unpad : Statement .unpad := by unfold Statement; decide
theorem addroundkey (k : BitVec 4) : Statement (.addroundkey k) := by
  revert k; unfold Statement; decide

end Sys2Proof.Laws.Encoding
end

