-- ==== Sys2Proof/Tests/Slice0.lean ====
section
/-! SUPPORT. Tests. Expected values are those of `95_test_vectors.md` (the vector is named with each test) or are written
out from the encoding of `30_encoding.md`. After them a witness for the hypotheses of every statement that has some. -/

namespace Sys2Proof.Tests

open Sys2Proof Sys2Proof.Machine

-- One proof after another: many `decide +kernel` at once wait for each other and hold a thread each.
set_option Elab.async false

/-! ## Helpers -/

/-- The `n` bytes of a number, most significant first, as the vectors print them. -/
def bytes (n v : Nat) : List Byte := (List.range n).map fun i => BitVec.ofNat 8 (v / 256 ^ (n - 1 - i))

/-- The block of a 32-digit hex number. -/
def block (v : Nat) : Block := blockAt (bytes 16 v) 0

/-- The state of an outcome. -/
def stateOf (o : Host.Outcome State Fault Refusal) : Option State :=
  match o with
  | .next t => some t
  | .fault _ => none
  | .refused _ => none

/-- The key K1 of the vectors. -/
def keyK1 : Block := block 0x000102030405060708090a0b0c0d0e0f

/-- The reset state with the key bytes and KLEN written. -/
def keyWritten : State := { State.reset with key := keyK1, klen := 16 }

/-- An idle engine with K1 loaded. -/
def loaded : State := { keyWritten with rk := expand keyK1, kvalid := true }

/-- The state with S written. -/
def withS (v : Nat) (s : State) : State := { s with sreg := block v }

/-- The state with the message `m` written at IBUF and ILEN set. -/
def withInput (m : List Byte) (s : State) : State :=
  { s with ibuf := Memory.writeBytes [] 0 m, ilen := BitVec.ofNat 16 m.length }

/-- The state after the next step, when command byte `d` has been placed. -/
def after (d : Nat) (s : State) : Option State := stateOf (step (s.withFetchWord 8 d))

/-- S after command byte `d`. -/
def sAfter (d : Nat) (s : State) : Option Block := (after d s).map State.sreg

/-- OBUF[0..OLEN) after command byte `d`. -/
def outAfter (d : Nat) (s : State) : Option (List Byte) := (after d s).map outputBytes

/-- STATUS and ERRCODE after command byte `d`. -/
def statusAfter (d : Nat) (s : State) : Option (Byte × Byte) := (after d s).map fun t => (statusByte t, t.errcode)

/-! ## Decoding (R93, R100, R101) -/

theorem test_decode_keyload : decode 0b00000001 = .ok .keyload := by decide
theorem test_decode_messages : decode 0b00010000 = .ok .encEcb ∧ decode 0b00010001 = .ok .encCbc ∧
    decode 0b00010010 = .ok .decEcb ∧ decode 0b00010011 = .ok .decCbc := by decide
theorem test_decode_blocks : decode 0b00100000 = .ok .blkenc ∧ decode 0b00100001 = .ok .blkdec := by decide
theorem test_decode_rounds : decode 0b00110000 = .ok .subbytes ∧ decode 0b00110001 = .ok .invsubbytes ∧
    decode 0b00110010 = .ok .shiftrows ∧ decode 0b00110011 = .ok .invshiftrows ∧
    decode 0b00110100 = .ok .mixcolumns ∧ decode 0b00110101 = .ok .invmixcolumns := by decide
theorem test_decode_units : decode 0b01000000 = .ok .mixcol ∧ decode 0b01000001 = .ok .invmixcol ∧
    decode 0b01000010 = .ok .gfmul ∧ decode 0b01000011 = .ok .rotword ∧ decode 0b01000100 = .ok .subword := by decide
theorem test_decode_padding : decode 0b01010000 = .ok .pad ∧ decode 0b01010001 = .ok .unpad := by decide
theorem test_decode_addroundkey : decode 0b01100000 = .ok (.addroundkey 0) ∧
    decode 0b01100101 = .ok (.addroundkey 5) ∧ decode 0b01101010 = .ok (.addroundkey 10) := by decide
/-- The bytes of T-ERR9, each rejected by name. -/
theorem test_decode_reserved : decode 0x00 = .error (.function 0 0) ∧ decode 0x02 = .error (.function 0 2) ∧
    decode 0x14 = .error (.mustBeZero 1 4) ∧ decode 0x36 = .error (.function 3 6) ∧
    decode 0x45 = .error (.function 4 5) ∧ decode 0x52 = .error (.mustBeZero 5 2) ∧
    decode 0x6B = .error (.roundKeyIndex 11) ∧ decode 0x6F = .error (.roundKeyIndex 15) ∧
    decode 0x70 = .error (.group 7) ∧ decode 0xFF = .error (.group 15) ∧ decodeBytes [] = .error .noByte := by decide
theorem test_decode_table_word : decodeTableWord 8 0x42 = some .gfmul ∧ decodeTableWord 8 0x7F = none := by decide

/-! ## Well-formedness (R93) -/

theorem test_wellformed_index_ten : (Instr.addroundkey 10).wellFormed = true := by decide
theorem test_wellformed_refuses_index_eleven : (Instr.addroundkey 11).wellFormed = false := by decide
theorem test_wellformed_refuses_index_fifteen : (Instr.addroundkey 15).wellFormed = false := by decide

/-! ## Unit commands (T-GF, T-MC, T-SB, T-KS3, T-RS) -/

theorem test_gfmul : sAfter 0x42 (withS 0x5783ee00000000000000000000000000 State.reset) =
    some (block 0x5783c100000000000000000000000000) := by decide
theorem test_gfmul_pairs : multiply 0x02 0x80 = 0x1b ∧ multiply 0xff 0xff = 0x13 ∧ multiply 0x53 0xca = 0x01 ∧
    multiply 0x57 0x10 = 0x07 ∧ multiply 0x0e 0xdb = 0x6e := by decide
theorem test_mixcol : sAfter 0x40 (withS 0xdb135345111111111111111111111111 State.reset) =
    some (block 0x8e4da1bc111111111111111111111111) := by decide +kernel
theorem test_invmixcol : sAfter 0x41 (withS 0xdb135345111111111111111111111111 State.reset) =
    some (block 0x32a41d55111111111111111111111111) := by decide +kernel
theorem test_rotword : sAfter 0x43 (withS 0x0c0d0e0faaaaaaaaaaaaaaaaaaaaaaaa State.reset) =
    some (block 0x0d0e0f0caaaaaaaaaaaaaaaaaaaaaaaa) := by decide
theorem test_subword : sAfter 0x44 (withS 0x0d0e0f0caaaaaaaaaaaaaaaaaaaaaaaa State.reset) =
    some (block 0xd7ab76feaaaaaaaaaaaaaaaaaaaaaaaa) := by decide +kernel
theorem test_subbytes : sAfter 0x30 (withS 0x000102030405060708090a0b0c0d0e0f State.reset) =
    some (block 0x637c777bf26b6fc53001672bfed7ab76) := by decide +kernel
theorem test_invsubbytes : sAfter 0x31 (withS 0x000102030405060708090a0b0c0d0e0f State.reset) =
    some (block 0x52096ad53036a538bf40a39e81f3d7fb) := by decide +kernel
theorem test_shiftrows : sAfter 0x32 (withS 0x000102030405060708090a0b0c0d0e0f State.reset) =
    some (block 0x00050a0f04090e03080d02070c01060b) := by decide
theorem test_invshiftrows : sAfter 0x33 (withS 0x000102030405060708090a0b0c0d0e0f State.reset) =
    some (block 0x000d0a0704010e0b0805020f0c090603) := by decide
theorem test_mixcolumns : sAfter 0x34 (withS 0x6353e08c0960e104cd70b751bacad0e7 State.reset) =
    some (block 0x5f72641557f5bc92f7be3b291db9f91a) := by decide +kernel
theorem test_invmixcolumns : sAfter 0x35 (withS 0x000102030405060708090a0b0c0d0e0f State.reset) =
    some (block 0x0a0f080d0e0b0c090207000506030401) := by decide +kernel
theorem test_addroundkey : sAfter 0x6a (withS 0x000102030405060708090a0b0c0d0e0f loaded) =
    some (block 0x13101f7ce7914c10fb0ead8041263eca) := by decide +kernel
theorem test_addroundkey_without_key : statusAfter 0x60 (withS 0xff State.reset) = some (0x06, 4) ∧
    sAfter 0x60 (withS 0xff State.reset) = some Block.zero := by decide +kernel

/-! ## Key schedule and block transform (T-KS1, T-KS2, T-BLK, T-ERR1) -/

theorem test_keyload : ((after 0x01 keyWritten).map fun t => (roundKey t.rk 0, roundKey t.rk 5, roundKey t.rk 10,
      statusByte t)) =
    some (keyK1, block 0x3caaa3e8a99f9deb50f3af57adf622aa, block 0x13111d7fe3944a17f307a78b4d2b30c5, 0x0a) := by
  decide +kernel
theorem test_keyload_length_fifteen : ((after 0x01 { loaded with klen := 15 }).map fun t =>
      (statusByte t, t.errcode, t.rk == zeroSchedule)) = some (0x06, 1, true) := by decide +kernel
theorem test_blkenc : sAfter 0x20 (withS 0x00112233445566778899aabbccddeeff loaded) =
    some (block 0x69c4e0d86a7b0430d8cdb78070b4c55a) := by decide +kernel
theorem test_blkenc_other_key : sAfter 0x20
      (withS 0x3243f6a8885a308d313198a2e0370734 { loaded with rk := expand (block 0x2b7e151628aed2a6abf7158809cf4f3c) }) =
    some (block 0x3925841d02dc09fbdc118597196a0b32) := by decide +kernel
theorem test_blkdec : sAfter 0x21 (withS 0x69c4e0d86a7b0430d8cdb78070b4c55a loaded) =
    some (block 0x00112233445566778899aabbccddeeff) := by decide +kernel
theorem test_blkdec_of_zero : sAfter 0x21 (withS 0 loaded) = some (block 0x7b1d29a16cf8ccab84f0b8a598e42fa6) := by
  decide +kernel

/-! ## Padding (T-PAD) -/

theorem test_pad : outAfter 0x50 (withInput [0x41] State.reset) =
    some (bytes 16 0x410f0f0f0f0f0f0f0f0f0f0f0f0f0f0f) := by decide +kernel
theorem test_pad_aligned : outAfter 0x50 (withInput (bytes 16 0x4142434445464748494a4b4c4d4e4f50) State.reset) =
    some (bytes 32 0x4142434445464748494a4b4c4d4e4f5010101010101010101010101010101010) := by decide +kernel
theorem test_unpad : outAfter 0x51
      (withInput (bytes 32 0x4142434445464748494a4b4c4d4e4f50510f0f0f0f0f0f0f0f0f0f0f0f0f0f0f) State.reset) =
    some (bytes 17 0x4142434445464748494a4b4c4d4e4f5051) := by decide +kernel
theorem test_unpad_last_byte_zero : statusAfter 0x51 (withInput (bytes 16 0) State.reset) = some (0x06, 3) := by
  decide +kernel

/-! ## Message commands (T-MSG, T-ERR) -/

theorem test_enc_ecb : outAfter 0x10 (withInput (bytes 3 0x616263) loaded) =
    some (bytes 16 0xb08b1f809a035064420d1d754022ab55) := by decide +kernel
theorem test_enc_ecb_overflow : statusAfter 0x10 { loaded with ilen := 64 } = some (0x0e, 5) := by decide +kernel
theorem test_enc_cbc : outAfter 0x11 { withInput (bytes 17 0x68656c6c6f2c2041455320776f726c6421) loaded with
      rngResp := some (block 0xf0f1f2f3f4f5f6f7f8f9fafbfcfdfeff) } =
    some (bytes 48 0xf0f1f2f3f4f5f6f7f8f9fafbfcfdfeffc3eacfc87a23feb718f7f52a6a360424e76e9de9052ac7c90e51147df7225955) := by
  decide +kernel
theorem test_enc_cbc_waits_for_its_draw : (after 0x11 (withInput [0x41] loaded)).map State.busy = some true := by
  decide +kernel
theorem test_dec_ecb : outAfter 0x12 (withInput (bytes 16 0xb08b1f809a035064420d1d754022ab55) loaded) =
    some (bytes 3 0x616263) := by decide +kernel
theorem test_dec_ecb_inconsistent_padding :
    statusAfter 0x12 (withInput (bytes 16 0xcf931c974f3a9c42f7d5575c7a7b0d35) loaded) = some (0x0e, 3) := by
  decide +kernel
theorem test_dec_cbc : outAfter 0x13 (withInput
      (bytes 48 0xf0f1f2f3f4f5f6f7f8f9fafbfcfdfeffc3eacfc87a23feb718f7f52a6a360424e76e9de9052ac7c90e51147df7225955) loaded) =
    some (bytes 17 0x68656c6c6f2c2041455320776f726c6421) := by decide +kernel
theorem test_dec_cbc_iv_only : statusAfter 0x13 (withInput (bytes 16 0) loaded) = some (0x0e, 3) := by decide +kernel

/-! ## Error priority, reserved bytes, host port (T-ERR, T-HOST) -/

theorem test_error_priority : statusAfter 0x10 { State.reset with ilen := 64 } = some (0x06, 4) ∧
    statusAfter 0x12 { loaded with ilen := 65 } = some (0x0e, 5) := by decide +kernel
theorem test_reserved_byte : statusAfter 0x6b loaded = some (0x0e, 6) := by decide +kernel

/-- What the host reads at `a` in state `s`. -/
def readAt (a : BitVec 16) (s : State) : List Byte := (hostRead a s).reads.map Prod.snd

theorem test_host_length_register :
    readAt 0x0004 (hostWrite 0x0005 0x12 (hostWrite 0x0004 0x34 State.reset)) = [0x34] ∧
      readAt 0x0005 (hostWrite 0x0005 0x12 (hostWrite 0x0004 0x34 State.reset)) = [0x12] := by decide
theorem test_host_block_register : readAt 0x0025 (hostWrite 0x0025 0xab State.reset) = [0xab] := by decide
theorem test_host_key_is_write_only : readAt 0x0010 (hostWrite 0x0010 0xff State.reset) = [0x00] ∧
    (hostWrite 0x0010 0xff State.reset).key.get 0 = 0xff := by decide
theorem test_host_status_while_busy : readAt 0x0001 (accept 0x20 loaded) = [0x09] ∧
    readAt 0x0001 (accept 0x20 State.reset) = [0x01] := by decide
theorem test_host_write_while_busy : hostWrite 0x0000 0x30 (accept 0x20 loaded) = accept 0x20 loaded := by
  decide +kernel

/-! ## Host wrapper (T-HEX) -/

theorem test_hex : hexEncode [0x00, 0x0f, 0xa0, 0xff] = ['0', '0', '0', 'f', 'a', '0', 'f', 'f'] ∧
    hexDecode ['6', '9', 'c', '4'] = some [0x69, 0xc4] ∧ hexDecode ['6', '9', 'C', '4'] = none ∧
    hexDecode ['6', '9', 'c'] = none ∧ hexDecode ['6', 'g'] = none ∧ hexDecode [] = some [] := by decide

/-! ## Witnesses -/

theorem next_of_stateOf {α : Type} {o : Host.Outcome State Fault Refusal} {f : State → α} {v : α}
    (h : (stateOf o).map f = some v) : ∃ t, o = .next t ∧ f t = v := by
  cases o with
  | next t => exact ⟨t, rfl, by simpa [stateOf] using h⟩
  | fault r => simp [stateOf] at h
  | refused r => simp [stateOf] at h

/-- A command byte accepted by the reset state meets the invariant, -/
theorem accepted_inv (d : Byte) : Inv (accept d State.reset) :=
  ⟨.inr (.inl rfl), ⟨fun _ => rfl, fun h => absurd h (by decide : false ≠ true)⟩, rfl, rfl, ⟨rfl, rfl⟩, ⟨rfl, rfl⟩,
    by show 0 ≤ _; omega, .inl ⟨rfl, rfl⟩, rfl, fun h => absurd rfl h⟩

/-- and so does one accepted when a key is loaded. -/
theorem accepted_loaded_inv (d : Byte) : Inv (accept d loaded) :=
  ⟨.inr (.inl rfl), ⟨fun _ => rfl, fun h => absurd h (by decide : false ≠ true)⟩, rfl, rfl, ⟨rfl, rfl⟩, ⟨rfl, rfl⟩,
    by show 0 ≤ _; omega, .inl ⟨rfl, rfl⟩,
    by show expand keyK1 = expand (roundKey (expand keyK1) 0); decide +kernel, fun h => absurd rfl h⟩

/-- The reset state with events to come. -/
def awaiting (es : List Event) : State := { State.reset with inbox := es }

/-- A state that runs command byte `d`, with events to come. -/
def running (d : Byte) (es : List Event) : State := { accept d State.reset with inbox := es }

/-- The same with a key loaded. -/
def runningLoaded (d : Byte) (es : List Event) : State := { accept d loaded with inbox := es }

/-- Both kinds of engine's turn. -/
theorem turnIsNext_empty {s : State} (h : s.inbox = [] := by rfl) : TurnIsNext s [] := .inl ⟨h, rfl⟩
theorem turnIsNext_event {s : State} {rest : List Event} (h : s.inbox = .engine :: rest := by rfl) :
    TurnIsNext s rest := .inr h

theorem witness_DecodeEncodeAgree : (Instr.addroundkey 10).wellFormed = true ∧
    decode 0x6A = .ok (.addroundkey 10) ∧ encode .unpad = encode .unpad := by decide

theorem witness_StepRunsDecodedCommand :
    (running 0x42 []).busy = true ∧ decode (running 0x42 []).opc = .ok .gfmul ∧ (running 0x42 []).inbox = [] ∧
      (running 0x42 [.engine, .reset]).inbox = .engine :: [.reset] := by decide

theorem witness_PlacedWordRunsNext : decodeTableWord 8 0x6A = some (.addroundkey 10) := by decide

theorem witness_AcceptanceOfCommand : (awaiting [.write 0x0000 0xFF]).busy = false ∧
    (awaiting [.write 0x0000 0xFF]).inbox = .write 0x0000 0xFF :: [] := by decide

theorem witness_ReservedByteEndsIllegalCommand : 
    (∀ es, (running 0x6B es).busy = true ∧ decode (running 0x6B es).opc = .error (.roundKeyIndex 11)) ∧
    TurnIsNext (running 0x6B []) [] ∧ TurnIsNext (running 0x6B [.engine, .reset]) [.reset] ∧ 10 < (11#4).toNat :=
  ⟨fun _ => ⟨rfl, show decode 0x6B = _ by decide⟩, turnIsNext_empty, turnIsNext_event, by decide⟩

/-- The hypotheses of its clause on a waiting ENC.CBC. -/
theorem witness_StepAlwaysAnswersNext : ∀ es,
    (runningLoaded 0x11 es).busy = true ∧ (runningLoaded 0x11 es).opc = 0x11 ∧
      encryptCheck .cbc (runningLoaded 0x11 es) = none ∧ (runningLoaded 0x11 es).rngResp = none ∧
      (es = [.engine] → TurnIsNext (runningLoaded 0x11 es) []) ∧ (es = [] → TurnIsNext (runningLoaded 0x11 es) []) :=
  fun _ => ⟨rfl, rfl, show encryptCheck .cbc (runningLoaded 0x11 []) = none by decide, rfl, .inr,
    fun h => .inl ⟨h, rfl⟩⟩

theorem witness_IdleEngineIsQuiet : (∀ es, (awaiting es).busy = false) ∧ TurnIsNext (awaiting []) [] ∧
    TurnIsNext (awaiting [.engine, .reset]) [.reset] := ⟨fun _ => rfl, turnIsNext_empty, turnIsNext_event⟩

/-- Every clause of the address map at both ends of its range, with `BUF_BYTES` = 64. -/
theorem witness_IdleHostRead_clauses : State.reset.busy = false ∧ capacity State.reset = 64 ∧
    [0x0000#16, 0x0001#16, 0x0002#16, 0x0003#16, 0x0004#16, 0x0005#16, 0x0006#16, 0x0007#16].map (regionOf 64) =
      [.cmd, .status, .errcode, .klen, .ilenLo, .ilenHi, .olenLo, .olenHi] ∧
    [0x0008#16, 0x000F#16, 0x0010#16, 0x001F#16, 0x0020#16, 0x002F#16, 0x0030#16, 0x3FFF#16].map (regionOf 64) =
      [.reserved, .reserved, .key 0, .key 15, .sreg 0, .sreg 15, .reserved, .reserved] ∧
    [0x4000#16, 0x403F#16, 0x4040#16, 0x7FFF#16, 0x8000#16, 0x803F#16, 0x8040#16, 0xFFFF#16].map (regionOf 64) =
      [.ibuf 0, .ibuf 63, .reserved, .reserved, .obuf 0, .obuf 63, .reserved, .reserved] := by decide

theorem witness_IdleHostRead : (awaiting [.read 0x402F]).busy = false ∧
    (awaiting [.read 0x402F]).inbox = .read 0x402F :: [] := by decide

theorem witness_BusyHostRead : (running 0x42 [.read 0x0001]).busy = true ∧
    (running 0x42 [.read 0x0001]).inbox = .read 0x0001 :: [] ∧
    (running 0x42 [.read 0x0000]).inbox = .read 0x0000 :: [] ∧ (0x0000#16 ≠ 0x0001#16) := by decide

theorem witness_IdleHostWrite : (awaiting [.write 0x403F 0xAB]).busy = false ∧
    (awaiting [.write 0x403F 0xAB]).inbox = .write 0x403F 0xAB :: [] := by decide

theorem witness_BusyHostWriteDropped : (running 0x42 [.write 0x0000 0x01]).busy = true ∧
    (running 0x42 [.write 0x0000 0x01]).inbox = .write 0x0000 0x01 :: [] := by decide

theorem witness_ReadAfterHostWrite : State.reset.busy = false ∧ 0x403F#16 ≠ 0x0000#16 ∧
    (0x4000 ≤ (0x403F#16).toNat ∧ (0x403F#16).toNat < 0x4000 + capacity State.reset) ∧
    (0x0020 ≤ (0x002F#16).toNat ∧ (0x002F#16).toNat ≤ 0x002F) ∧ 0x0005#16 ≠ 0x0004#16 := by decide

theorem witness_ResetState : (runningLoaded 0x10 [.reset]).inbox = .reset :: [] := by decide

theorem witness_RandomAnswerTakenOrIgnored :
    (runningLoaded 0x11 [.rngAnswer Block.zero]).inbox = .rngAnswer Block.zero :: [] ∧
    ((runningLoaded 0x11 [.rngAnswer Block.zero]).busy = true ∧ (runningLoaded 0x11 [.rngAnswer Block.zero]).opc = 0x11 ∧
      encryptCheck .cbc (runningLoaded 0x11 [.rngAnswer Block.zero]) = none ∧
      (runningLoaded 0x11 [.rngAnswer Block.zero]).rngResp = none) ∧
    (awaiting [.rngAnswer Block.zero]).busy = false := by decide

theorem witness_KeyloadCommand : keyWritten.klen = 16 ∧ State.reset.klen ≠ 16 := by decide

theorem witness_AddRoundKeyCommand : (10#4).toNat ≤ 10 ∧ loaded.kvalid = true ∧ State.reset.kvalid = false := by
  decide

theorem witness_BlockTransformCommands : loaded.kvalid = true ∧ State.reset.kvalid = false := by decide

/-- PAD at the exact fit (ILEN = 63) and one byte beyond it. -/
theorem witness_PadCommand :
    16 * (inputLength { State.reset with ilen := 63 } / 16 + 1) ≤ capacity { State.reset with ilen := 63 } ∧
    capacity { State.reset with ilen := 64 } < 16 * (inputLength { State.reset with ilen := 64 } / 16 + 1) := by decide

/-- The inputs of UNPAD for each clause: too long, of wrong length, a full block of padding, and a zero last byte. -/
theorem witness_UnpadCommand :
    capacity { State.reset with ilen := 65 } < inputLength { State.reset with ilen := 65 } ∧
    (inputLength State.reset ≤ capacity State.reset ∧ inputLength State.reset = 0) ∧
    (inputLength { State.reset with ilen := 63 } ≤ capacity { State.reset with ilen := 63 } ∧
      inputLength { State.reset with ilen := 63 } % 16 ≠ 0) ∧
    (let s := withInput (List.replicate 64 16) State.reset;
      inputLength s ≤ capacity s ∧ inputLength s ≠ 0 ∧ inputLength s % 16 = 0 ∧
        16 = (ibufByte s (inputLength s - 1)).toNat ∧
        ∀ j, j < 16 → (ibufByte s (inputLength s - 1 - j)).toNat = 16) ∧
    (let s := withInput (List.replicate 16 0) State.reset;
      inputLength s ≤ capacity s ∧ inputLength s ≠ 0 ∧ inputLength s % 16 = 0 ∧
        0 = (ibufByte s (inputLength s - 1)).toNat) := by decide +kernel

theorem witness_EncryptCommands :
    loaded.kvalid = true ∧
    16 * (inputLength { loaded with ilen := 63 } / 16 + 1) ≤ capacity { loaded with ilen := 63 } ∧
    16 * (inputLength { loaded with ilen := 47 } / 16 + 1) + 16 ≤ capacity { loaded with ilen := 47 } ∧
    { loaded with rngResp := some Block.zero }.rngResp = some Block.zero := by decide

/-- A ciphertext for each outcome of the two decryptions (T-MSG1, T-ERR3, T-MSG8, T-ERR6). -/
theorem witness_DecryptCommands :
    (let s := withInput (bytes 16 0xb08b1f809a035064420d1d754022ab55) loaded;
      s.kvalid = true ∧ inputLength s ≤ capacity s ∧ inputLength s ≠ 0 ∧ inputLength s % 16 = 0 ∧
        decryptMessage (inputBytes s) s.rk .ecb = some (bytes 3 0x616263)) ∧
    (let s := withInput (bytes 16 0xc6a13b37878f5b826f4f8162a1c8d879) loaded;
      decryptMessage (inputBytes s) s.rk .ecb = none) ∧
    (let s := withInput (bytes 32 0xb08b1f809a035064420d1d754022ab55) loaded;
      s.kvalid = true ∧ inputLength s ≤ capacity s ∧ inputLength s ≠ 0 ∧ inputLength s % 16 = 0 ∧
        decryptMessage (inputBytes s) s.rk .cbc = some (bytes 3 0x616263)) ∧
    (let s := withInput (bytes 16 0) loaded;
      decryptMessage (inputBytes s) s.rk .cbc = none) := by decide +kernel

theorem witness_MessageCommandChecks :
    State.reset.kvalid = false ∧ loaded.kvalid = true ∧
    capacity { loaded with ilen := 64 } < 16 * (inputLength { loaded with ilen := 64 } / 16 + 1) ∧
    capacity { loaded with ilen := 48 } < 16 * (inputLength { loaded with ilen := 48 } / 16 + 1) + 16 ∧
    capacity { loaded with ilen := 65 } < inputLength { loaded with ilen := 65 } ∧
    (inputLength loaded ≤ capacity loaded ∧ inputLength loaded = 0) ∧
    (inputLength { loaded with ilen := 17 } ≤ capacity { loaded with ilen := 17 } ∧
      inputLength { loaded with ilen := 17 } % 16 ≠ 0) := by decide

theorem witness_UnansweredDrawNeverCompletes :
    let s := runningLoaded 0x11 [.engine, .write 0x0000 0x01];
    s.busy = true ∧ s.opc = 0x11 ∧ encryptCheck .cbc s = none ∧ s.rngResp = none ∧
      (∀ e ∈ s.inbox, e ≠ .reset ∧ ∀ iv, e ≠ .rngAnswer iv) ∧ ∃ t, Host.Core.run Sys2Proof.core 3 s = .next t := by
  refine ⟨rfl, rfl, by decide, rfl, ?_, _, rfl⟩
  intro e he
  have he : e = .engine ∨ e = .write 0x0000 0x01 := by simpa [runningLoaded] using he
  rcases he with rfl | rfl <;> simp

/-- An error of a command that keeps the key schedule, of KEYLOAD, which drops it, and of a reserved encoding. -/
theorem witness_ErrorEntryIsUniform :
    (∀ d es, (runningLoaded d es).busy = true ∧ (runningLoaded d es).err = false) ∧
    (∀ d, TurnIsNext (runningLoaded d []) []) ∧ (∀ d, TurnIsNext (runningLoaded d [.engine, .reset]) [.reset]) ∧
    (∃ t, step (runningLoaded 0x51 []) = .next t ∧ t.err = true) ∧
    (∃ t, step (accept 0x01 { loaded with klen := 15 }) = .next t ∧ t.err = true) ∧
    (∃ t, step (runningLoaded 0x6B [.engine, .reset]) = .next t ∧ t.err = true) :=
  ⟨fun _ _ => ⟨rfl, rfl⟩, fun _ => turnIsNext_empty, fun _ => turnIsNext_event, next_of_stateOf (f := State.err) (by decide +kernel),
    next_of_stateOf (f := State.err) (by decide +kernel), next_of_stateOf (f := State.err) (by decide +kernel)⟩

theorem witness_ErrorsLeaveNoTrace : loaded.err = false ∧ (∃ t, exec .unpad loaded = .next t ∧ t.err = true) ∧
    ∃ u, exec .unpad { loaded with sreg := keyK1, cv := keyK1, obuf := [(3, 0x7F)], olen := 5 } = .next u :=
  ⟨rfl, next_of_stateOf (f := State.err) (by decide +kernel), exec_shape _ _ |>.imp fun _ h => h.1⟩

/-- The last index the table of R267 speaks of, and one error that occurs. -/
theorem witness_ErrorsByCommand : (Instr.addroundkey 10).wellFormed = true ∧ CanRaise (.addroundkey 10) 4 := by
  refine ⟨by decide, ?_⟩
  obtain ⟨t, ht, he⟩ := next_of_stateOf (o := exec (.addroundkey 10) State.reset) (f := fun t => (t.err, t.errcode))
    (v := (true, 4)) (by decide +kernel)
  exact ⟨State.reset, t, rfl, ht, congrArg Prod.fst he, congrArg Prod.snd he⟩

theorem witness_ErrorStaysUntilNextCommand :
    let s := { State.reset with done := true, err := true, errcode := 4, inbox := [.write 0x0020 0x55] };
    s.busy = false ∧ (∃ t, step s = .next t) ∧ (∀ d rest, s.inbox ≠ .write 0x0000 d :: rest) ∧
      ∀ rest, s.inbox ≠ .reset :: rest := by
  refine ⟨rfl, ⟨_, rfl⟩, ?_, ?_⟩ <;> simp

theorem witness_CommandsKeepInputs : ∃ t, exec .pad (withInput [0x41] State.reset) = .next t :=
  exec_shape _ _ |>.imp fun _ h => h.1

/-- A reset and a KEYLOAD, each of which changes RK or KVALID. -/
theorem witness_ScheduleChangesOnlyByKeyload :
    (∃ t, step { loaded with inbox := [.reset] } = .next t ∧ ¬ KeepsSchedule { loaded with inbox := [.reset] } t) ∧
    (∃ t, step { accept 0x01 keyWritten with inbox := [] } = .next t ∧
      ¬ KeepsSchedule { accept 0x01 keyWritten with inbox := [] } t) := by
  constructor
  · exact ⟨_, rfl, fun h => absurd h.2 (by decide)⟩
  · obtain ⟨t, ht, hk⟩ := next_of_stateOf (o := step { accept 0x01 keyWritten with inbox := [] }) (f := State.kvalid)
      (v := true) (by decide +kernel)
    exact ⟨t, ht, fun h => absurd (h.2.symm.trans hk) (by decide)⟩

theorem witness_HiddenRegistersNotRead :
    let t := { State.reset with key := keyK1, cv := keyK1, opc := 0x42, rk := expand keyK1 };
    State.reset.busy = false ∧ t = { State.reset with key := t.key, rk := t.rk, cv := t.cv, opc := t.opc } :=
  ⟨rfl, rfl⟩

theorem witness_RoundKeysReadableThroughS :
    ((5#4).toNat ≤ 10 ∧ loaded.kvalid = true ∧ loaded.sreg = Block.zero ∧
      ∃ t, exec (.addroundkey 5) loaded = .next t) ∧
    (keyWritten.klen = 16 ∧ ∃ t, exec .keyload keyWritten = .next t) :=
  ⟨⟨by decide, rfl, rfl, exec_shape _ _ |>.imp fun _ h => h.1⟩, rfl, exec_shape _ _ |>.imp fun _ h => h.1⟩

theorem witness_MultiplyLaws : (0x53 : Byte) ≠ 0 ∧ multiply 0x53 0xCA = 1 := by decide

theorem witness_SboxIsAffineInverse : (multiply 0x53 0xCA = 1 ∨ ((0x53 : Byte) = 0 ∧ (0xCA : Byte) = 0)) ∧
    (multiply 0 0 = 1 ∨ ((0 : Byte) = 0 ∧ (0 : Byte) = 0)) := by decide

theorem witness_PaddingRoundTrip : (List.replicate 16 (16 : Byte)).length % 16 = 0 ∧
    unpad (List.replicate 16 16) = some [] := by decide

theorem witness_ScheduleDeterminedByOneRoundKey :
    10 ≤ 10 ∧ roundKey (expand keyK1) 10 = roundKey (expand keyK1) 10 := ⟨by omega, rfl⟩

theorem witness_ChainingByBlock : 1 < [Block.zero, keyK1].length := by decide

/-- Both round trips, with the message "abc": the encryption succeeds, and the state with OBUF copied to IBUF. -/
theorem witness_CommandRoundTrip :
    (∃ t, exec .encEcb (withInput (bytes 3 0x616263) loaded) = .next t ∧
      ((t.done, t.err, t.olen), (t.kvalid, t.rk), outputBytes t) =
        ((true, false, 16), (true, loaded.rk), bytes 16 0xb08b1f809a035064420d1d754022ab55)) ∧
    (∃ t, exec .encCbc { withInput (bytes 3 0x616263) loaded with rngResp := some Block.zero } = .next t ∧
      ((t.done, t.err, t.olen), (t.kvalid, t.rk), outputBytes t) =
        ((true, false, 32), (true, loaded.rk), bytes 32 0xb08b1f809a035064420d1d754022ab55)) ∧
    (let u := withInput (bytes 16 0xb08b1f809a035064420d1d754022ab55) loaded;
      (u.err, u.cfg, u.rk, u.kvalid, u.ilen, inputBytes u) =
        (false, loaded.cfg, loaded.rk, true, 16, bytes 16 0xb08b1f809a035064420d1d754022ab55)) ∧
    (let u := withInput (bytes 32 0xb08b1f809a035064420d1d754022ab55) loaded;
      (u.err, u.cfg, u.rk, u.kvalid, u.ilen, inputBytes u) =
        (false, loaded.cfg, loaded.rk, true, 32, bytes 32 0xb08b1f809a035064420d1d754022ab55)) ∧
    loaded.done = false ∧ loaded.err = false :=
  ⟨next_of_stateOf (by decide +kernel), next_of_stateOf (by decide +kernel), by decide +kernel, by decide +kernel, rfl,
    rfl⟩

theorem witness_StepKeepsInvariant : Inv (accept 0x42 State.reset) ∧ ∃ t, step (accept 0x42 State.reset) = .next t :=
  ⟨accepted_inv 0x42, _, rfl⟩

theorem witness_CommandsComplete :
    (∀ es, (running 0x51 es).busy = true ∧ ¬ ((running 0x51 es).opc = 0x11 ∧
      encryptCheck .cbc (running 0x51 es) = none ∧ (running 0x51 es).rngResp = none)) ∧
    TurnIsNext (running 0x51 []) [] ∧ TurnIsNext (running 0x51 [.engine, .reset]) [.reset] :=
  ⟨fun _ => ⟨rfl, fun h => absurd h.1 (by decide : (0x51 : Byte) ≠ 0x11)⟩, turnIsNext_empty, turnIsNext_event⟩

theorem witness_SequencerRefinesCommands : Inv (accept 0x6A loaded) ∧ (accept 0x6A loaded).busy = true ∧
    decode (accept 0x6A loaded).opc = .ok (.addroundkey 10) := ⟨accepted_loaded_inv _, rfl, rfl⟩

/-- A message command that completes, and an ENC.CBC whose draw is not answered. -/
theorem witness_SequencerRefinesMessages :
    (Inv (accept 0x10 loaded) ∧ (accept 0x10 loaded).busy = true ∧ decode (accept 0x10 loaded).opc = .ok .encEcb) ∧
    (Inv (accept 0x11 loaded) ∧ (accept 0x11 loaded).busy = true ∧ decode (accept 0x11 loaded).opc = .ok .encCbc ∧
      encryptCheck .cbc (accept 0x11 loaded) = none ∧ (accept 0x11 loaded).rngResp = none) :=
  ⟨⟨accepted_loaded_inv _, rfl, rfl⟩, accepted_loaded_inv _, rfl, rfl, rfl, rfl⟩

theorem witness_HexRoundTrip : hexDecode ['6', '9', 'c', '4'] = some [0x69, 0xC4] := by decide

end Sys2Proof.Tests
end

section
/-! PROOFS. The schedule as a word list (`43_key_schedule.md` R153): the loop appends, so the key stays in front. -/

namespace Sys2Proof.Machine

open Sys2Proof

/-- One pass of the loop of R153. -/
def expandStep (w : List Word) : List Word :=
  w ++ [nextWord w.length (w.getD (w.length - 1) Word.zero) (w.getD (w.length - 4) Word.zero)]

theorem expandLoop_eq_iterate (n : Nat) (w : List Word) : expandLoop n w = expandStep^[n] w := by
  induction n generalizing w with
  | zero => rfl
  | succ n ih => exact ih _

theorem expandLoop_succ (n : Nat) (w : List Word) : expandLoop (n + 1) w = expandStep (expandLoop n w) := by
  simp only [expandLoop_eq_iterate, Function.iterate_succ_apply']

@[simp] theorem expandLoop_length (n : Nat) (w : List Word) : (expandLoop n w).length = w.length + n := by
  induction n with
  | zero => rfl
  | succ n ih => rw [expandLoop_succ, expandStep, List.length_append, ih]; rfl

/-- The words already there stay in front. -/
theorem expandLoop_getD_of_lt (n j : Nat) (w : List Word) (hj : j < w.length) :
    (expandLoop n w).getD j Word.zero = w.getD j Word.zero := by
  induction n with
  | zero => rfl
  | succ n ih =>
    rw [expandLoop_succ, expandStep, List.getD_append _ _ _ _ (by rw [expandLoop_length]; omega), ih]

/-- Round key 0 of a schedule is the key (R66). -/
theorem roundKey_expand_zero (key : Block) : roundKey (expand key) 0 = key := by
  have word (j : Nat) (hj : j < 4) :
      (expandWords key).getD j Word.zero = [key.c0, key.c1, key.c2, key.c3].getD j Word.zero :=
    expandLoop_getD_of_lt 40 j _ hj
  show roundKeyOf (expandWords key) 0 = key
  simp only [roundKeyOf, word 0 (by omega), word 1 (by omega), word 2 (by omega), word 3 (by omega)]
  rfl

end Sys2Proof.Machine
end

section
/-! PROOFS. The engine's turn as an inversion lemma, and the two ways an ENC.CBC completes. -/

namespace Sys2Proof.Machine

open Sys2Proof

theorem engineTurn_cases (s t : State) (h : engineTurn s = .next t) :
    (s.busy = false ∧ t = s) ∨ (s.busy = true ∧ (∃ e, decode s.opc = .error e) ∧ t = raise .illegalCommand s) ∨
      (s.busy = true ∧ ∃ i, decode s.opc = .ok i ∧ exec i s = .next t) := by
  unfold engineTurn at h
  cases hb : s.busy with
  | false =>
    rw [hb] at h
    exact .inl ⟨rfl, (Host.Outcome.next.inj h).symm⟩
  | true =>
    rw [hb] at h
    cases hd : decode s.opc with
    | ok i =>
      rw [hd] at h
      exact .inr (.inr ⟨rfl, i, rfl, h⟩)
    | error e =>
      rw [hd] at h
      exact .inr (.inl ⟨rfl, ⟨e, rfl⟩, (Host.Outcome.next.inj h).symm⟩)

theorem exec_encCbc_refused (s : State) (e : ErrKind) (hc : encryptCheck .cbc s = some e) :
    exec .encCbc s = .next (raise e s) := by
  simp only [exec, execEncCbc, hc]

theorem exec_encCbc_answered (s : State) (iv : Block) (hc : encryptCheck .cbc s = none) (hr : s.rngResp = some iv) :
    exec .encCbc s =
      .next (finishMessage (encryptMessage (inputBytes s) s.rk .cbc iv) { s with rngResp := none }) := by
  simp only [exec, execEncCbc, hc, hr]

end Sys2Proof.Machine
end

section
/-! PROOFS. The invariant `Inv`: it holds at reset, every operation of the machine keeps it, so every step does. -/

namespace Sys2Proof.Machine

open Sys2Proof

/-! ### The buffers -/

theorem bufferForm_nil (cap : Nat) : BufferForm [] cap := ⟨rfl, rfl⟩

theorem bufferForm_zeros (cap : Nat) : BufferForm (Memory.zeros cap) cap :=
  ⟨Memory.wf_zeros cap, Memory.within_zeros cap⟩

theorem BufferForm.write {m : Memory} {cap a : Nat} (h : BufferForm m cap) (ha : a < cap) (v : Byte) :
    BufferForm (m.write a v) cap :=
  ⟨Memory.wf_write m a v h.1, Memory.within_write m a cap v ha h.2⟩

theorem BufferForm.writeBytes {m : Memory} {cap off : Nat} {v : List Byte} (h : BufferForm m cap)
    (hv : off + v.length ≤ cap) : BufferForm (m.writeBytes off v) cap :=
  ⟨Memory.wf_writeBytes m off v h.1, Memory.within_writeBytes m off cap v hv h.2⟩

theorem storeResult_outputLength (v : List Byte) (s : State) (hv : v.length ≤ capacity s) :
    outputLength (storeResult v s) = v.length :=
  (storeResult_outputIs v s hv).1

theorem storeResult_outputForm (v : List Byte) (s : State) (hv : v.length ≤ capacity s) :
    OutputForm (storeResult v s) := by
  refine .inr fun j hj => ?_
  rw [storeResult_outputLength v s hv, storeResult_read?]
  rw [storeResult_capacity] at hj
  refine ⟨by split <;> simp, fun hle => ?_⟩
  rw [if_neg (by omega), if_pos hj]

/-! ### What the invariant says of a running or an idle engine -/

theorem Inv.running {s : State} (h : Inv s) (hb : s.busy = true) :
    s.done = false ∧ s.err = false ∧ s.errcode = 0 := by
  have herr := h.errcode.1
  have hflags := h.flags
  simp only [LegalFlags, Prod.mk.injEq] at hflags
  obtain ⟨hb', -⟩ | ⟨-, hd, he⟩ | ⟨hb', -⟩ | ⟨hb', -⟩ := hflags
  · simp [hb] at hb'
  · exact ⟨hd, he, herr he⟩
  · simp [hb] at hb'
  · simp [hb] at hb'

theorem Inv.noAnswer_of_idle {s : State} (h : Inv s) (hb : s.busy = false) : s.rngResp = none := by
  by_contra hr
  obtain ⟨hrun, -⟩ := h.draw hr
  exact Bool.noConfusion (hb.symm.trans hrun)

/-- The running command holds an answer only if it is an ENC.CBC whose checks pass. -/
theorem Inv.noAnswer_of_not_drawing {s : State} (h : Inv s)
    (hn : ¬ (decode s.opc = .ok .encCbc ∧ encryptCheck .cbc s = none)) : s.rngResp = none := by
  by_contra hr
  obtain ⟨-, hopc, hcheck⟩ := h.draw hr
  exact hn ⟨by rw [hopc]; rfl, hcheck⟩

/-! ### The operations keep it -/

theorem Inv.withInbox {s : State} (h : Inv s) (es : List Event) : Inv { s with inbox := es } :=
  { h with }

theorem Inv.withSreg {s : State} (h : Inv s) (b : Block) : Inv { s with sreg := b } :=
  { h with }

theorem Inv.withoutAnswer {s : State} (h : Inv s) : Inv { s with rngResp := none } :=
  { h with draw := fun hr => absurd rfl hr }

theorem Inv.respond {s : State} (h : Inv s) (a : BitVec 16) (d : Byte) : Inv (respond a d s) :=
  { h with }

theorem Inv.clearWorking {s : State} (h : Inv s) : Inv (clearWorking s) :=
  { h with chaining := rfl }

theorem Inv.storeResult {s : State} (h : Inv s) {v : List Byte} (hv : v.length ≤ capacity s) :
    Inv (storeResult v s) :=
  { h with
    output := (bufferForm_zeros _).writeBytes (by omega)
    outputLength := by rw [storeResult_outputLength v s hv]; exact hv
    outputBytes := storeResult_outputForm v s hv }

theorem Inv.loadSchedule {s : State} (h : Inv s) (hr : s.rngResp = none) (key : Block) :
    Inv { s with rk := expand key, kvalid := true } :=
  { h with
    schedule := by simp [roundKey_expand_zero]
    draw := fun hn => absurd hr hn }

theorem Inv.dropSchedule {s : State} (h : Inv s) (hr : s.rngResp = none) : Inv (dropSchedule s) :=
  { h with
    schedule := rfl
    draw := fun hn => absurd hr hn }

/-- Completion of a command that holds no answer (any more). -/
theorem Inv.complete {s : State} (h : Inv s) (hb : s.busy = true) (hr : s.rngResp = none) : Inv (complete s) :=
  { h with
    flags := .inr (.inr (.inl (by simp [Machine.complete, (h.running hb).2.1])))
    sequencer := rfl
    draw := fun hn => absurd hr hn }

theorem ErrKind.code_bounds (e : ErrKind) : 1 ≤ e.code.toNat ∧ e.code.toNat ≤ 6 := by
  cases e <;> decide

/-- Error entry of a command that holds no answer. -/
theorem Inv.raise {s : State} (h : Inv s) (hr : s.rngResp = none) (e : ErrKind) : Inv (raise e s) :=
  { h with
    flags := .inr (.inr (.inr rfl))
    errcode := ⟨fun he => Bool.noConfusion he, fun _ => e.code_bounds⟩
    sequencer := rfl
    chaining := rfl
    output := bufferForm_zeros _
    outputLength := Nat.zero_le _
    outputBytes := .inr fun j hj => by
      have hread : (Memory.zeros (capacity s)).read? j = some 0x00 := (Memory.read?_zeros _ j).trans (if_pos hj)
      exact ⟨by rw [raise_obuf, hread]; rfl, fun _ => by rw [raise_obuf, hread]⟩
    draw := fun hn => absurd hr hn }

theorem Inv.finishMessage {s : State} (h : Inv s) (hb : s.busy = true) (hr : s.rngResp = none) {v : List Byte}
    (hv : v.length ≤ capacity s) : Inv (finishMessage v s) :=
  (h.storeResult hv).clearWorking.complete hb hr

theorem Inv.accept {s : State} (h : Inv s) (hr : s.rngResp = none) (d : Byte) : Inv (accept d s) :=
  { h with
    flags := .inr (.inl rfl)
    errcode := ⟨fun _ => rfl, fun he => Bool.noConfusion he⟩
    sequencer := rfl
    draw := fun hn => absurd hr hn }

theorem resetOf_inv (c : Config) : Inv (State.resetOf c) where
  flags := .inl rfl
  errcode := ⟨fun _ => rfl, fun he => Bool.noConfusion he⟩
  sequencer := rfl
  chaining := rfl
  input := bufferForm_nil _
  output := bufferForm_nil _
  outputLength := Nat.zero_le _
  outputBytes := .inl ⟨rfl, rfl⟩
  schedule := rfl
  draw := fun hn => absurd rfl hn

theorem resetEngine_inv (s : State) : Inv (resetEngine s) :=
  { resetOf_inv s.cfg with }

/-! ### The events keep it -/

theorem Inv.hostRead {s : State} (h : Inv s) (a : BitVec 16) : Inv (hostRead a s) := by
  unfold Machine.hostRead
  split
  · split
    · exact h.respond _ _
    · have hd : Inv { s with draws := s.draws + 1 } := { h with }
      exact hd.respond _ _
  · exact h.respond _ _

theorem Inv.regionWrite {s : State} (h : Inv s) (hr : s.rngResp = none) (r : Region) (d : Byte)
    (hbuf : ∀ j, r = .ibuf j → j < capacity s) : Inv (regionWrite r d s) := by
  have idleDraw : ∀ t : State, t.rngResp = s.rngResp →
      t.rngResp ≠ none → t.busy = true ∧ t.opc = encode .encCbc ∧ encryptCheck .cbc t = none :=
    fun t ht hn => absurd (ht.trans hr) hn
  cases r with
  | cmd => exact h.accept hr d
  | ibuf j => exact { h with input := h.input.write (hbuf j rfl) d, draw := idleDraw _ rfl }
  | klen | ilenLo | ilenHi | key | sreg => exact { h with draw := idleDraw _ rfl }
  | status | errcode | olenLo | olenHi | obuf | reserved => exact h

theorem Inv.hostWrite {s : State} (h : Inv s) (a : BitVec 16) (d : Byte) : Inv (hostWrite a d s) := by
  unfold Machine.hostWrite
  split
  · exact h
  · rename_i hb
    obtain ⟨-, -, hibuf, -⟩ := regionOf_bounds (capacity s) a
    exact h.regionWrite (h.noAnswer_of_idle (by simpa using hb)) _ d hibuf

theorem Inv.takeRngAnswer {s : State} (h : Inv s) (iv : Block) : Inv (takeRngAnswer iv s) := by
  unfold Machine.takeRngAnswer
  split
  · rename_i hout
    simp only [drawOutstanding, Bool.and_eq_true, decide_eq_true_eq] at hout
    obtain ⟨⟨⟨hb, hopc⟩, hcheck⟩, -⟩ := hout
    exact { h with draw := fun _ => ⟨hb, hopc, hcheck⟩ }
  · exact h

/-- A completion step that starts without an answer, shape by shape. -/
theorem Inv.execShape {s t : State} {i : Instr} (h : Inv s) (hb : s.busy = true) (hr : s.rngResp = none)
    (hs : ExecShape i s t) : Inv t := by
  cases hs with
  | error e => exact h.raise hr e
  | keyLength => exact (h.dropSchedule hr).raise hr _
  | keyload => exact (h.loadSchedule hr s.key).complete hb hr
  | block b => exact (h.withSreg b).complete hb hr
  | output v _ hv => exact (h.storeResult hv).complete hb hr
  | message v r _ hv hr' =>
    obtain rfl : r = none := by rw [hr', hr, ite_self]
    exact h.withoutAnswer.finishMessage hb rfl hv
  | waiting => exact h

/-- The completion step of the command in OPC. An ENC.CBC whose draw is answered is the one command that starts with an
answer, and it uses it up. -/
theorem Inv.exec {s t : State} {i : Instr} (h : Inv s) (hb : s.busy = true) (hd : decode s.opc = .ok i)
    (ht : exec i s = .next t) : Inv t := by
  by_cases hdraw : i = .encCbc ∧ encryptCheck .cbc s = none
  · obtain ⟨rfl, hc⟩ := hdraw
    cases hr : s.rngResp with
    | none => exact h.execShape hb hr (exec_cases _ _ _ ht)
    | some iv =>
      rw [exec_encCbc_answered s iv hc hr] at ht
      obtain rfl := Host.Outcome.next.inj ht
      exact h.withoutAnswer.finishMessage hb rfl (encryptMessage_fits .cbc s iv hc)
  · have hr : s.rngResp = none :=
      h.noAnswer_of_not_drawing fun ⟨hcbc, hc⟩ => hdraw ⟨Except.ok.inj (hd.symm.trans hcbc), hc⟩
    exact h.execShape hb hr (exec_cases _ _ _ ht)

theorem Inv.engineTurn {s t : State} (h : Inv s) (ht : engineTurn s = .next t) : Inv t := by
  obtain ⟨-, rfl⟩ | ⟨-, ⟨e, he⟩, rfl⟩ | ⟨hb, i, hd, hi⟩ := engineTurn_cases s t ht
  · exact h
  · exact h.raise (h.noAnswer_of_not_drawing fun ⟨hok, _⟩ => by simp [he] at hok) _
  · exact h.exec hb hd hi

theorem Inv.deliver {s t : State} (h : Inv s) (e : Event) (ht : deliver e s = .next t) : Inv t := by
  cases e with
  | read a => cases ht; exact h.hostRead a
  | write a d => cases ht; exact h.hostWrite a d
  | rngAnswer iv => cases ht; exact h.takeRngAnswer iv
  | reset => cases ht; exact resetEngine_inv s
  | engine => exact h.engineTurn ht

/-- Settles O53. -/
theorem resetMeetsInvariant : Obligations.ResetMeetsInvariant := resetOf_inv

/-- Settles O54: a step is one event at the ports, or the engine's turn. -/
theorem stepKeepsInvariant : Obligations.StepKeepsInvariant := by
  intro s t h ht
  cases hin : s.inbox with
  | nil => exact h.engineTurn (step_of_empty s hin ▸ ht)
  | cons e rest => exact (h.withInbox rest).deliver e (step_of_event s e rest hin ▸ ht)

end Sys2Proof.Machine
end

section
/-! PROOFS. STATUS, what a read depends on, and what the commands and the steps leave unchanged. -/

namespace Sys2Proof.Machine

open Sys2Proof

/-! ### STATUS and reads -/

/-- Settles O10: STATUS is five fields side by side, so it is enough to look at the sixteen values of the flags. -/
theorem statusRegisterBits : Obligations.StatusRegisterBits := by
  intro s
  unfold statusByte
  generalize s.busy = busy
  generalize s.done = done
  generalize s.err = err
  generalize s.kvalid = kvalid
  revert busy done err kvalid
  decide

theorem hostRead_idle (a : BitVec 16) (s : State) (hb : s.busy = false) :
    hostRead a s = respond a (regionRead s (regionOf (capacity s) a)) s := by simp [hostRead, hb]

/-- No region of the address map shows KEY, RK, CV or OPC. -/
theorem regionRead_hidden (s : State) (r : Region) (key : Block) (rk : Vector Block 11) (cv : Block) (opc : Byte) :
    regionRead { s with key := key, rk := rk, cv := cv, opc := opc } r = regionRead s r := by
  cases r <;> rfl

/-- Settles O39. -/
theorem hiddenRegistersNotRead : Obligations.HiddenRegistersNotRead := by
  intro s t a hb ht
  have hbt : t.busy = false := by rw [ht]; exact hb
  have hregion (r : Region) : regionRead t r = regionRead s r := by rw [ht]; exact regionRead_hidden s r _ _ _ _
  have hcap : capacity t = capacity s := by rw [ht]; rfl
  have hreads : t.reads = s.reads := by rw [ht]
  rw [hostRead_idle a s hb, hostRead_idle a t hbt, respond_reads, respond_reads, hregion, hcap, hreads]

/-! ### The inputs -/

theorem KeepsInputs.refl (s : State) : KeepsInputs s s := ⟨rfl, rfl, rfl, fun _ => rfl⟩

theorem KeepsPorts.refl (s : State) : KeepsPorts s s := ⟨rfl, rfl, rfl, rfl, rfl, rfl⟩

/-- No shape of a completion step touches what the host wrote. -/
theorem ExecShape.keepsInputs {i : Instr} {s t : State} (h : ExecShape i s t) : KeepsInputs s t := by
  cases h <;> exact KeepsInputs.refl s

/-- Nor the model's own fields. -/
theorem ExecShape.keepsPorts {i : Instr} {s t : State} (h : ExecShape i s t) : KeepsPorts s t := by
  cases h <;> exact KeepsPorts.refl s

theorem ExecShape.keepsAnswer {i : Instr} {s t : State} (h : ExecShape i s t) (hi : i ≠ .encCbc) :
    t.rngResp = s.rngResp := by
  cases h with
  | message v r _ _ hr => exact hr.trans (if_neg hi)
  | error | keyLength | keyload | block | output | waiting => rfl

/-- Settles O37. -/
theorem commandsKeepInputs : Obligations.CommandsKeepInputs := by
  intro i s t ht
  have hs := exec_cases i s t ht
  exact ⟨hs.keepsInputs, hs.keepsPorts, hs.keepsAnswer⟩

/-! ### The schedule -/

theorem KeepsSchedule.refl (s : State) : KeepsSchedule s s := ⟨rfl, rfl⟩

theorem ExecShape.keepsSchedule {i : Instr} {s t : State} (h : ExecShape i s t) (hi : i ≠ .keyload) :
    KeepsSchedule s t := by
  cases h with
  | keyLength hk => exact absurd hk hi
  | keyload hk => exact absurd hk hi
  | error | block | output | message | waiting => exact KeepsSchedule.refl s

theorem hostRead_keepsSchedule (a : BitVec 16) (s : State) : KeepsSchedule s (hostRead a s) := by
  unfold hostRead
  split
  · split <;> exact KeepsSchedule.refl s
  · exact KeepsSchedule.refl s

theorem hostWrite_keepsSchedule (a : BitVec 16) (d : Byte) (s : State) : KeepsSchedule s (hostWrite a d s) := by
  unfold hostWrite
  split
  · exact KeepsSchedule.refl s
  · cases regionOf (capacity s) a <;> exact KeepsSchedule.refl s

theorem takeRngAnswer_keepsSchedule (iv : Block) (s : State) : KeepsSchedule s (takeRngAnswer iv s) := by
  unfold takeRngAnswer
  split <;> exact KeepsSchedule.refl s

/-- 0x01 is the one byte of KEYLOAD (R100). -/
theorem opc_of_decode_keyload (b : Byte) (h : decode b = .ok .keyload) : b = 0x01 := by
  revert b
  decide

/-- An engine's turn that changes RK or KVALID completes a KEYLOAD. -/
theorem engineTurn_changes_schedule (s t : State) (ht : engineTurn s = .next t) (hk : ¬ KeepsSchedule s t) :
    s.busy = true ∧ s.opc = 0x01 := by
  obtain ⟨-, rfl⟩ | ⟨-, -, rfl⟩ | ⟨hb, i, hd, hi⟩ := engineTurn_cases s t ht
  · exact absurd (KeepsSchedule.refl t) hk
  · exact absurd (raise_keepsSchedule _ s) hk
  · by_cases hload : i = .keyload
    · exact ⟨hb, opc_of_decode_keyload _ (hload ▸ hd)⟩
    · exact absurd ((exec_cases i s t hi).keepsSchedule hload) hk

/-- Settles O38: of the events, only a reset and the engine's turn can change RK or KVALID. -/
theorem scheduleChangesOnlyByKeyload : Obligations.ScheduleChangesOnlyByKeyload := by
  intro s t ht hk
  cases hin : s.inbox with
  | nil =>
    rw [step_of_empty s hin] at ht
    obtain ⟨hb, hopc⟩ := engineTurn_changes_schedule s t ht hk
    exact .inr ⟨hb, hopc, .inl rfl⟩
  | cons e rest =>
    rw [step_of_event s e rest hin] at ht
    cases e with
    | read a => cases ht; exact absurd (hostRead_keepsSchedule a { s with inbox := rest }) hk
    | write a d => cases ht; exact absurd (hostWrite_keepsSchedule a d { s with inbox := rest }) hk
    | rngAnswer iv => cases ht; exact absurd (takeRngAnswer_keepsSchedule iv { s with inbox := rest }) hk
    | reset => exact .inl ⟨rest, rfl⟩
    | engine =>
      obtain ⟨hb, hopc⟩ := engineTurn_changes_schedule { s with inbox := rest } t ht hk
      exact .inr ⟨hb, hopc, .inr ⟨rest, rfl⟩⟩

end Sys2Proof.Machine
end

section
/-! PROOFS. The sequencer as the iteration of the micro-step of one command. -/

namespace Sys2Proof.Machine

open Sys2Proof

/-! ### One micro-step per phase -/

theorem microStep_idle (i : Instr) (s : State) (h : s.seq = .idle) : microStep i s = s := by simp [microStep, h]

theorem microStep_check (i : Instr) (s : State) (h : s.seq = .check) : microStep i s = seqCheck i s := by
  simp [microStep, h]

theorem microStep_keyexp (i : Instr) (s : State) (n : Nat) (h : s.seq = .keyexp n) :
    microStep i s = seqKeyexp n s := by simp [microStep, h]

theorem microStep_round (i : Instr) (s : State) (q r : Nat) (h : s.seq = .round q r) :
    microStep i s = seqRound i q r s := by simp [microStep, h]

/-! ### No micro-step changes OPC, so a run is an iteration -/

theorem seqCheck_opc (i : Instr) (s : State) : (seqCheck i s).opc = s.opc := by
  unfold seqCheck checkKeySchedule
  repeat' split
  all_goals rfl

theorem seqIvgen_opc (i : Instr) (s : State) : (seqIvgen i s).opc = s.opc := by
  unfold seqIvgen
  repeat' split
  all_goals rfl

theorem seqBlkstore_opc (i : Instr) (q : Nat) (s : State) : (seqBlkstore i q s).opc = s.opc := by
  unfold seqBlkstore
  split
  · dsimp only
    split <;> rfl
  all_goals rfl

theorem seqUnpadchk_opc (i : Instr) (s : State) : (seqUnpadchk i s).opc = s.opc := by
  unfold seqUnpadchk
  repeat' split
  all_goals rfl

theorem microStep_opc (i : Instr) (s : State) : (microStep i s).opc = s.opc := by
  unfold microStep
  split
  · rfl
  · exact seqCheck_opc i s
  · rfl
  · unfold seqPadgen; split <;> rfl
  · exact seqIvgen_opc i s
  · unfold seqBlkload; split <;> rfl
  · unfold seqRound; split <;> rfl
  · exact seqBlkstore_opc i _ s
  · exact seqUnpadchk_opc i s
  · rfl
  · unfold seqFinish; split <;> rfl

theorem seqStep_of_decode (i : Instr) (s : State) (hd : decode s.opc = .ok i) : seqStep s = microStep i s := by
  unfold seqStep
  split
  · exact (microStep_idle i s ‹_›).symm
  · rw [hd]

/-- The run of a command is the iteration of its micro-step. -/
theorem seqRun_eq_iterate (i : Instr) (n : Nat) (s : State) (hd : decode s.opc = .ok i) :
    seqRun n s = (microStep i)^[n] s := by
  induction n generalizing s with
  | zero => rfl
  | succ n ih =>
    have hd' : decode (microStep i s).opc = .ok i := by rw [microStep_opc, hd]
    rw [seqRun, seqStep_of_decode i s hd, ih _ hd', Function.iterate_succ_apply]

/-! ### The eleven ROUND micro-steps -/

/-- The block function of a direction (R190, R191). -/
def transform (dir : Direction) (b : Block) (rk : Vector Block 11) : Block :=
  match dir with
  | .encrypt => cipher b rk
  | .decrypt => invCipher b rk

/-- The rounds 0..10 of R193 in order are the block function. -/
theorem foldl_roundStep (dir : Direction) (rk : Vector Block 11) (b : Block) :
    (List.range 11).foldl (fun t r => roundStep dir rk r t) b = transform dir b rk := by
  cases dir <;> rfl

/-- Command `i` runs the rounds of `dir` on `S` in its ROUND phase for block `q`, and then goes on to the phase `exit`. -/
def RunsRounds (i : Instr) (dir : Direction) (q : Nat) (exit : Seq) : Prop :=
  ∀ r t, seqRound i q r t =
    { t with sreg := roundStep dir t.rk r t.sreg, seq := if r < 10 then .round q (r + 1) else exit }

/-- The first `r + 1` ROUND micro-steps. -/
theorem RunsRounds.iterate_succ {i : Instr} {dir : Direction} {q : Nat} {exit : Seq} (h : RunsRounds i dir q exit)
    (s : State) (hs : s.seq = .round q 0) (r : Nat) (hr : r ≤ 10) :
    (microStep i)^[r + 1] s =
      { s with
        sreg := (List.range (r + 1)).foldl (fun t k => roundStep dir s.rk k t) s.sreg
        seq := if r < 10 then .round q (r + 1) else exit } := by
  induction r with
  | zero =>
    rw [Function.iterate_one, microStep_round i s q 0 hs, h]
    rfl
  | succ r ih =>
    rw [Function.iterate_succ_apply', ih (by omega), if_pos (by omega), microStep_round i _ q (r + 1) rfl, h,
      List.range_succ (n := r + 1), List.foldl_append]
    rfl

/-- The whole ROUND phase is the block function. -/
theorem RunsRounds.iterate {i : Instr} {dir : Direction} {q : Nat} {exit : Seq} (h : RunsRounds i dir q exit)
    (s : State) (hs : s.seq = .round q 0) :
    (microStep i)^[11] s = { s with sreg := transform dir s.sreg s.rk, seq := exit } := by
  rw [h.iterate_succ s hs 10 le_rfl, foldl_roundStep]
  rfl

end Sys2Proof.Machine
end

section
/-! PROOFS. The KEYEXP phase (`43_key_schedule.md` R156): the words stored in RK are the words of R153. -/

namespace Sys2Proof.Machine

open Sys2Proof

theorem Block.col_setCol (b : Block) (c d : Nat) (w : Word) (hc : c < 4) (hd : d < 4) :
    (b.setCol c w).col d = if d = c then w else b.col d := by
  interval_cases c <;> interval_cases d <;> rfl

theorem roundKey_eq_getElem? (rk : Vector Block 11) (k : Nat) : roundKey rk k = rk[k]?.getD Block.zero := by
  simp [roundKey, Vector.getD]

theorem roundKey_setIfInBounds (rk : Vector Block 11) (j k : Nat) (b : Block) (hj : j < 11) :
    roundKey (rk.setIfInBounds j b) k = if k = j then b else roundKey rk k := by
  simp only [roundKey_eq_getElem?, Vector.getElem?_setIfInBounds]
  by_cases hk : k = j
  · rw [if_pos hk, if_pos hk.symm, if_pos hj]
    rfl
  · rw [if_neg hk, if_neg (Ne.symm hk)]

/-- Storing word `n` of the schedule changes that word only. -/
theorem scheduleWord_setScheduleWord (rk : Vector Block 11) (n j : Nat) (w : Word) (hn : n < 44) :
    scheduleWord (setScheduleWord rk n w) j = if j = n then w else scheduleWord rk j := by
  simp only [scheduleWord, setScheduleWord, roundKey_setIfInBounds rk _ _ _ (show n / 4 < 11 by omega)]
  by_cases hk : j / 4 = n / 4
  · rw [if_pos hk, Block.col_setCol _ _ _ _ (by omega) (by omega), hk]
    by_cases hj : j = n
    · simp [hj]
    · rw [if_neg (by omega), if_neg hj]
  · rw [if_neg hk, if_neg (by rintro rfl; exact hk rfl)]

/-- A schedule that stores the 44 words of a list is the schedule of the list. -/
theorem eq_scheduleOf (rk : Vector Block 11) (w : List Word)
    (h : ∀ j, j < 44 → scheduleWord rk j = w.getD j Word.zero) : rk = scheduleOf w := by
  have key (k : Nat) (hk : k < 11) : roundKey rk k = roundKeyOf w k := by
    have col (c : Nat) (hc : c < 4) : (roundKey rk k).col c = w.getD (4 * k + c) Word.zero := by
      rw [← h (4 * k + c) (by omega), scheduleWord, show (4 * k + c) / 4 = k by omega,
        show (4 * k + c) % 4 = c by omega]
    show (⟨_, _, _, _⟩ : Block) = _
    exact congr (congr (congr (congrArg _ (col 0 (by omega))) (col 1 (by omega))) (col 2 (by omega)))
      (col 3 (by omega))
  refine Vector.ext fun k hk => ?_
  have hget : rk[k] = roundKey rk k := by simp [roundKey_eq_getElem?, hk]
  rw [hget, key k hk]
  interval_cases k <;> rfl

/-- RK after the first `n` KEYEXP micro-steps. -/
def storedSchedule (rk : Vector Block 11) : Nat → Vector Block 11
  | 0 => rk
  | n + 1 =>
    setScheduleWord (storedSchedule rk n) (n + 4)
      (nextWord (n + 4) (scheduleWord (storedSchedule rk n) (n + 3)) (scheduleWord (storedSchedule rk n) n))

/-- The words stored so far are the words expanded so far. -/
theorem scheduleWord_storedSchedule (rk : Vector Block 11) (w : List Word) (hw : w.length = 4)
    (h : ∀ j, j < 4 → scheduleWord rk j = w.getD j Word.zero) (n : Nat) (hn : n ≤ 40) (j : Nat) (hj : j < n + 4) :
    scheduleWord (storedSchedule rk n) j = (expandLoop n w).getD j Word.zero := by
  induction n generalizing j with
  | zero => exact h j hj
  | succ n ih =>
    have hlen : (expandLoop n w).length = n + 4 := by rw [expandLoop_length, hw, Nat.add_comm]
    have ih' := ih (by omega)
    rw [storedSchedule, scheduleWord_setScheduleWord _ _ _ _ (by omega), expandLoop_succ, expandStep, hlen]
    by_cases hnew : j = n + 4
    · rw [if_pos hnew, ih' (n + 3) (by omega), ih' n (by omega), hnew, ← hlen, List.getD_append_right _ _ _ _ le_rfl,
        Nat.sub_self, hlen]
      rfl
    · rw [if_neg hnew, ih' j (by omega), List.getD_append _ _ _ _ (by omega)]

/-- Forty words stored after the key make the schedule of the key. -/
theorem storedSchedule_eq_expand (rk : Vector Block 11) (key : Block) :
    storedSchedule (rk.setIfInBounds 0 key) 40 = expand key := by
  refine eq_scheduleOf _ _ fun j hj => scheduleWord_storedSchedule _ _ rfl (fun c hc => ?_) 40 le_rfl j hj
  rw [scheduleWord, roundKey_setIfInBounds _ _ _ _ (by omega), if_pos (by omega)]
  interval_cases c <;> rfl

/-- The first `n` KEYEXP micro-steps. -/
theorem iterate_keyexp (i : Instr) (s : State) (hs : s.seq = .keyexp 4) (n : Nat) (hn : n ≤ 39) :
    (microStep i)^[n + 1] s =
      { s with rk := storedSchedule s.rk (n + 1), seq := if n = 39 then .finish else .keyexp (n + 5) } := by
  induction n with
  | zero =>
    rw [Function.iterate_one, microStep_keyexp i s 4 hs]
    rfl
  | succ n ih =>
    rw [Function.iterate_succ_apply', ih (by omega), if_neg (by omega), microStep_keyexp i _ (n + 5) rfl, seqKeyexp]
    congr 1
    exact if_congr (by omega) rfl rfl

end Sys2Proof.Machine
end

section
/-! PROOFS. The commands without a message: their micro-steps compose to the completion step (`10_state.md` R41). -/

namespace Sys2Proof.Machine

open Sys2Proof

/-- From acceptance, `n` micro-steps of command `i` make its completion step. -/
def RefinedBy (i : Instr) (s : State) (n : Nat) : Prop := exec i s = .next ((microStep i)^[n] s)

theorem RefinedBy.run {i : Instr} {s : State} {n : Nat} (h : RefinedBy i s n) (hd : decode s.opc = .ok i) :
    exec i s = .next (seqRun n s) := by
  rw [seqRun_eq_iterate i n s hd]
  exact h

/-- A command that CHECK ends takes one micro-step. -/
theorem refinedBy_one {i : Instr} {s : State} (hs : s.seq = .check) (h : exec i s = .next (seqCheck i s)) :
    RefinedBy i s 1 := by
  rw [RefinedBy, Function.iterate_one, microStep_check i s hs, h]

/-- A command whose CHECK enters phase `p` takes one micro-step more than from there. -/
theorem refinedBy_succ {i : Instr} {s t : State} {n : Nat} (hs : s.seq = .check) (hcheck : seqCheck i s = t)
    (h : exec i s = .next ((microStep i)^[n] t)) : RefinedBy i s (n + 1) := by
  rw [RefinedBy, Function.iterate_succ_apply, microStep_check i s hs, hcheck, h]

/-! ### Unit commands -/

theorem exec_unit_refused (i : Instr) (s : State) (e : ErrKind) (hk : seqKind i = .unitStep)
    (hc : unitCheck i s = some e) : exec i s = .next (raise e s) := by
  cases i with
  | addroundkey k =>
    simp only [unitCheck, Instr.wellFormed] at hc
    simp only [exec, execAddroundkey, keyedCommand]
    cases hl : legalRoundKeyIndex k <;> cases hv : s.kvalid <;> simp_all
  | keyload | encEcb | encCbc | decEcb | decCbc | blkenc | blkdec | pad | unpad => cases hk
  | subbytes | invsubbytes | shiftrows | invshiftrows | mixcolumns | invmixcolumns | mixcol | invmixcol | gfmul
  | rotword | subword => simp [unitCheck, Instr.wellFormed] at hc

theorem exec_unit_passed (i : Instr) (s : State) (hk : seqKind i = .unitStep) (hc : unitCheck i s = none) :
    exec i s = .next (complete { s with sreg := unitEffect i s.rk s.sreg }) := by
  cases i with
  | addroundkey k =>
    simp only [unitCheck, Instr.wellFormed] at hc
    simp only [exec, execAddroundkey, keyedCommand, unitEffect]
    cases hl : legalRoundKeyIndex k <;> cases hv : s.kvalid <;> simp_all
  | keyload | encEcb | encCbc | decEcb | decCbc | blkenc | blkdec | pad | unpad => cases hk
  | subbytes | invsubbytes | shiftrows | invshiftrows | mixcolumns | invmixcolumns | mixcol | invmixcol | gfmul
  | rotword | subword => rfl

/-- CHECK, UNIT, FINISH. -/
theorem unit_refined (i : Instr) (s : State) (hs : s.seq = .check) (hk : seqKind i = .unitStep) :
    ∃ n, RefinedBy i s n ∧ n ≤ 42 := by
  cases hc : unitCheck i s with
  | some e =>
    have hcheck : seqCheck i s = raise e s := by simp only [seqCheck, hk, hc]
    exact ⟨1, refinedBy_one hs (by rw [hcheck, exec_unit_refused i s e hk hc]), by omega⟩
  | none =>
    have hcheck : seqCheck i s = { s with seq := .unit } := by simp only [seqCheck, hk, hc]
    refine ⟨3, refinedBy_succ hs hcheck ?_, by omega⟩
    rw [exec_unit_passed i s hk hc]
    show _ = Host.Outcome.next (seqFinish i _)
    simp only [seqFinish, hk]
    rfl

/-! ### Block commands -/

theorem exec_block (i : Instr) (dir : Direction) (s : State) (hk : seqKind i = .block dir) :
    exec i s = keyedCommand (transform dir) s := by
  cases i with
  | blkenc | blkdec => cases hk; rfl
  | _ => cases hk

/-- CHECK, ROUND eleven times, FINISH. -/
theorem block_refined (i : Instr) (dir : Direction) (s : State) (hs : s.seq = .check) (hk : seqKind i = .block dir) :
    ∃ n, RefinedBy i s n ∧ n ≤ 42 := by
  cases hv : s.kvalid with
  | false =>
    have hcheck : seqCheck i s = raise .keyNotLoaded s := by simp [seqCheck, hk, hv]
    exact ⟨1, refinedBy_one hs (by rw [hcheck, exec_block i dir s hk, keyedCommand_notLoaded _ s hv]), by omega⟩
  | true =>
    have hcheck : seqCheck i s = { s with seq := .round 0 0 } := by simp [seqCheck, hk, hv]
    have hrounds : RunsRounds i dir 0 .finish := fun r t => by simp only [seqRound, hk]
    refine ⟨13, refinedBy_succ hs hcheck ?_, by omega⟩
    rw [exec_block i dir s hk, keyedCommand_loaded _ s hv, Function.iterate_succ_apply', hrounds.iterate _ rfl]
    show _ = Host.Outcome.next (seqFinish i _)
    simp only [seqFinish, hk]
    rfl

/-! ### PAD and UNPAD -/

/-- CHECK, PADGEN, FINISH. -/
theorem pad_refined (s : State) (hs : s.seq = .check) : ∃ n, RefinedBy .pad s n ∧ n ≤ 42 := by
  by_cases hfit : capacity s < paddedLength (inputLength s)
  · refine ⟨1, refinedBy_one hs ?_, by omega⟩
    simp [exec, execPad, seqCheck, seqKind, hfit]
  · have hcheck : seqCheck .pad s = { s with seq := .padgen } := by simp [seqCheck, seqKind, hfit]
    refine ⟨3, refinedBy_succ hs hcheck ?_, by omega⟩
    simp only [exec, execPad, if_neg hfit]
    rfl

/-- CHECK, UNPADCHK, FINISH. -/
theorem unpad_refined (s : State) (hs : s.seq = .check) : ∃ n, RefinedBy .unpad s n ∧ n ≤ 42 := by
  by_cases hfit : capacity s < inputLength s
  · refine ⟨1, refinedBy_one hs ?_, by omega⟩
    simp [exec, execUnpad, seqCheck, seqKind, hfit]
  by_cases hlen : badCiphertextLength (inputLength s) = true
  · refine ⟨1, refinedBy_one hs ?_, by omega⟩
    simp [exec, execUnpad, seqCheck, seqKind, hfit, hlen]
  have hcheck : seqCheck .unpad s = { s with seq := .unpadchk } := by simp [seqCheck, seqKind, hfit, hlen]
  cases hm : unpad (inputBytes s) with
  | none =>
    have hm' : unpad (inputBytes { s with seq := .unpadchk }) = none := hm
    refine ⟨2, refinedBy_succ hs hcheck ?_, by omega⟩
    show _ = Host.Outcome.next (seqUnpadchk .unpad _)
    simp only [exec, execUnpad, if_neg hfit, if_neg hlen, hm, seqUnpadchk, seqKind, hm']
    rfl
  | some m =>
    have hm' : unpad (inputBytes { s with seq := .unpadchk }) = some m := hm
    refine ⟨3, refinedBy_succ hs hcheck ?_, by omega⟩
    show _ = Host.Outcome.next (microStep .unpad (seqUnpadchk .unpad _))
    simp only [exec, execUnpad, if_neg hfit, if_neg hlen, hm, seqUnpadchk, seqKind, hm']
    rfl

/-! ### KEYLOAD -/

/-- CHECK, KEYEXP forty times, FINISH. -/
theorem keyload_refined (s : State) (hs : s.seq = .check) : ∃ n, RefinedBy .keyload s n ∧ n ≤ 42 := by
  by_cases hlen : s.klen = 16
  · have hcheck : seqCheck .keyload s = { s with rk := s.rk.setIfInBounds 0 s.key, seq := .keyexp 4 } := by
      simp [seqCheck, seqKind, checkKeySchedule, hlen]
    refine ⟨42, refinedBy_succ hs hcheck ?_, le_rfl⟩
    rw [Function.iterate_succ_apply', iterate_keyexp .keyload _ rfl 39 le_rfl, storedSchedule_eq_expand, if_pos rfl]
    simp only [exec, execKeyload, if_pos hlen]
    rfl
  · refine ⟨1, refinedBy_one hs ?_, by omega⟩
    simp only [exec, execKeyload, seqCheck, seqKind, checkKeySchedule, if_neg hlen]

/-- Settles O56, kind of sequence by kind of sequence. -/
theorem sequencerRefinesCommands : Obligations.SequencerRefinesCommands := by
  intro s i h hb hd h1 h2 h3 h4
  have hs : s.seq = .check := by rw [h.sequencer, hb, if_pos rfl]
  have hrefined : ∃ n, RefinedBy i s n ∧ n ≤ 42 := by
    cases i with
    | keyload => exact keyload_refined s hs
    | encEcb => exact absurd rfl h1
    | encCbc => exact absurd rfl h2
    | decEcb => exact absurd rfl h3
    | decCbc => exact absurd rfl h4
    | blkenc | blkdec => exact block_refined _ _ s hs rfl
    | pad => exact pad_refined s hs
    | unpad => exact unpad_refined s hs
    | subbytes | invsubbytes | shiftrows | invshiftrows | mixcolumns | invmixcolumns | mixcol | invmixcol | gfmul
    | rotword | subword | addroundkey => exact unit_refined _ s hs rfl
  obtain ⟨n, hn, hle⟩ := hrefined
  exact ⟨n, hn.run hd, hle⟩

end Sys2Proof.Machine
end

section
/-! PROOFS. The block loop of a message command (`47_mode_controller.md` R229), in both directions and modes. -/

namespace Sys2Proof.Machine

open Sys2Proof

/-! ### What one block does -/

/-- The output block of a message command for the input block `x` (R222, R223). -/
def blockOutput (dir : Direction) (mode : Mode) (rk : Vector Block 11) (cv x : Block) : Block :=
  match dir with
  | .encrypt => cipher (chainIn mode cv x) rk
  | .decrypt => chainIn mode cv (invCipher x rk)

/-- The chaining variable after the input block `x`. -/
def blockChain (dir : Direction) (mode : Mode) (rk : Vector Block 11) (cv x : Block) : Block :=
  match dir with
  | .encrypt => chainNext mode cv (cipher (chainIn mode cv x) rk)
  | .decrypt => chainNext mode cv x

/-- The block loops of R222 and R223 as one. -/
def messageLoop (dir : Direction) (mode : Mode) (rk : Vector Block 11) : Block → List Block → List Block
  | _, [] => []
  | cv, x :: xs => blockOutput dir mode rk cv x :: messageLoop dir mode rk (blockChain dir mode rk cv x) xs

theorem messageLoop_encrypt (mode : Mode) (rk : Vector Block 11) (cv : Block) (bs : List Block) :
    messageLoop .encrypt mode rk cv bs = encryptLoop rk mode cv bs := by
  induction bs generalizing cv with
  | nil => rfl
  | cons b bs ih => exact congrArg _ (ih _)

theorem messageLoop_decrypt (mode : Mode) (rk : Vector Block 11) (cv : Block) (bs : List Block) :
    messageLoop .decrypt mode rk cv bs = decryptLoop rk mode cv bs := by
  induction bs generalizing cv with
  | nil => rfl
  | cons b bs ih => exact congrArg _ (ih _)

/-- Where the output stream begins in OBUF: after the IV of a CBC encryption. -/
def outputOffset (dir : Direction) (mode : Mode) : Nat :=
  match dir, mode with
  | .encrypt, .ecb => 0
  | .encrypt, .cbc => 16
  | .decrypt, .ecb => 0
  | .decrypt, .cbc => 0

/-- `OLEN` after the last block: an encryption sets it there. -/
def loopLength (dir : Direction) (mode : Mode) (s : State) : BitVec 16 :=
  match dir with
  | .encrypt => BitVec.ofNat 16 (outputOffset .encrypt mode + 16 * dataBlocks .encrypt mode s)
  | .decrypt => s.olen

/-- The phase after the last block. -/
def loopExit (dir : Direction) : Seq :=
  match dir with
  | .encrypt => .finish
  | .decrypt => .unpadchk

/-- The working registers and the outputs do not feed the input stream. -/
theorem streamBlock_working (dir : Direction) (mode : Mode) (q : Nat) (s : State) (b cv : Block) (m : Memory)
    (n : BitVec 16) (p : Seq) :
    streamBlock dir mode q { s with sreg := b, cv := cv, obuf := m, olen := n, seq := p } =
      streamBlock dir mode q s := by
  cases dir <;> cases mode <;> rfl

theorem dataBlocks_working (dir : Direction) (mode : Mode) (s : State) (b cv : Block) (m : Memory) (n : BitVec 16)
    (p : Seq) :
    dataBlocks dir mode { s with sreg := b, cv := cv, obuf := m, olen := n, seq := p } = dataBlocks dir mode s := by
  cases dir <;> cases mode <;> rfl

/-- BLKLOAD, ROUND eleven times and BLKSTORE, for the last block and for any other. -/
theorem iterate_block (i : Instr) (dir : Direction) (mode : Mode) (hk : seqKind i = .message dir mode) (q : Nat)
    (s : State) (hs : s.seq = .blkload q) (hq : q < dataBlocks dir mode s) :
    (microStep i)^[13] s =
      { s with
        sreg := blockOutput dir mode s.rk s.cv (streamBlock dir mode q s)
        cv := blockChain dir mode s.rk s.cv (streamBlock dir mode q s)
        obuf := s.obuf.writeBytes (outputOffset dir mode + 16 * q)
          (blockOutput dir mode s.rk s.cv (streamBlock dir mode q s)).toList
        olen := if q + 1 < dataBlocks dir mode s then s.olen else loopLength dir mode s
        seq := if q + 1 < dataBlocks dir mode s then .blkload (q + 1) else loopExit dir } := by
  have hload : microStep i s = seqBlkload i q s := by simp [microStep, hs]
  have hrounds : RunsRounds i dir q (.blkstore q) := fun r t => by simp only [seqRound, hk]
  have hstore (t : State) (ht : t.seq = .blkstore q) : microStep i t = seqBlkstore i q t := by simp [microStep, ht]
  rw [Function.iterate_succ_apply', Function.iterate_succ_apply, hload]
  cases dir with
  | encrypt =>
    simp only [seqBlkload, hk]
    rw [hrounds.iterate _ rfl, hstore _ rfl]
    simp only [seqBlkstore, hk, dataBlocks_working]
    by_cases hmore : q + 1 < dataBlocks .encrypt mode s
    · simp only [if_pos hmore]
      cases mode <;> rfl
    · have hlast : q + 1 = dataBlocks .encrypt mode s := by omega
      simp only [if_neg hmore]
      simp only [loopLength, ← hlast]
      cases mode <;> rfl
  | decrypt =>
    have hoffset : outputOffset .decrypt mode + 16 * q = 16 * q := by cases mode <;> exact Nat.zero_add _
    simp only [seqBlkload, hk]
    rw [hrounds.iterate _ rfl, hstore _ rfl]
    simp only [seqBlkstore, hk, dataBlocks_working, streamBlock_working, hoffset, loopLength, ite_self]
    rfl

/-! ### The loop -/

theorem Memory.writeBytes_append (m : Memory) (off : Nat) (a b : List Byte) :
    m.writeBytes off (a ++ b) = (m.writeBytes off a).writeBytes (off + a.length) b := by
  induction a generalizing m off with
  | nil => rfl
  | cons x a ih =>
    rw [List.cons_append, Memory.writeBytes, Memory.writeBytes, ih, List.length_cons, Nat.add_assoc,
      Nat.add_comm 1 a.length]

/-- `s` after its last block: `out` stands in OBUF from block `q` on, and `S` and `CV` hold what the loop left there. -/
def afterLoop (dir : Direction) (mode : Mode) (q : Nat) (out : List Byte) (b cv : Block) (s : State) : State :=
  { s with
    sreg := b
    cv := cv
    obuf := s.obuf.writeBytes (outputOffset dir mode + 16 * q) out
    olen := loopLength dir mode s
    seq := loopExit dir }

/-- The last `n + 1` blocks, from block `q` on. -/
theorem iterate_blocks (i : Instr) (dir : Direction) (mode : Mode) (hk : seqKind i = .message dir mode) (n q : Nat)
    (s : State) (hs : s.seq = .blkload q) (hn : dataBlocks dir mode s = q + (n + 1)) :
    ∃ b cv, (microStep i)^[13 * (n + 1)] s =
      afterLoop dir mode q
        (bytesOf (messageLoop dir mode s.rk s.cv ((List.range' q (n + 1)).map fun k => streamBlock dir mode k s)))
        b cv s := by
  induction n generalizing q s with
  | zero =>
    have hblock := iterate_block i dir mode hk q s hs (by omega)
    simp only [if_neg (show ¬ q + 1 < dataBlocks dir mode s by omega)] at hblock
    have hout : bytesOf (messageLoop dir mode s.rk s.cv ((List.range' q (0 + 1)).map fun k => streamBlock dir mode k s)) =
        (blockOutput dir mode s.rk s.cv (streamBlock dir mode q s)).toList := List.append_nil _
    rw [hout]
    exact ⟨_, _, hblock⟩
  | succ n ih =>
    have hblock := iterate_block i dir mode hk q s hs (by omega)
    simp only [if_pos (show q + 1 < dataBlocks dir mode s by omega)] at hblock
    obtain ⟨b, cv, hrest⟩ := ih (q + 1) ((microStep i)^[13] s) (by rw [hblock])
      (by rw [hblock, dataBlocks_working]; omega)
    rw [show 13 * (n + 1 + 1) = 13 * (n + 1) + 13 by omega, Function.iterate_add_apply]
    refine ⟨b, cv, hrest.trans ?_⟩
    rw [hblock]
    simp only [afterLoop, streamBlock_working, List.range'_succ (n := n + 1), List.map_cons, messageLoop, bytesOf_cons,
      Memory.writeBytes_append, Block.length_toList, Nat.mul_succ, Nat.add_assoc]
    cases dir <;> cases mode <;> rfl

end Sys2Proof.Machine
end

section
/-! PROOFS. The message commands: their micro-steps compose to the completion step (`10_state.md` R41; R229). -/

namespace Sys2Proof.Machine

open Sys2Proof

/-! ### The output buffer -/

theorem Memory.read?_clearFrom (m : Memory) (lo cap j : Nat) :
    (m.clearFrom lo cap).read? j = if lo ≤ j ∧ j < cap then some 0x00 else m.read? j := by
  rw [Memory.clearFrom, Memory.read?_writeBytes, List.length_replicate, List.getD_eq_getElem?_getD,
    List.getElem?_getD_replicate_default_eq]
  exact if_congr (by omega) rfl rfl

theorem BufferForm.clearFrom {m : Memory} {cap lo hi : Nat} (h : BufferForm m cap) (hlo : lo ≤ cap) (hhi : hi ≤ cap) :
    BufferForm (m.clearFrom lo hi) cap :=
  h.writeBytes (by rw [List.length_replicate]; omega)

theorem BufferForm.read?_of_le {m : Memory} {cap j : Nat} (h : BufferForm m cap) (hj : cap ≤ j) : m.read? j = none := by
  by_contra hne
  exact absurd (Memory.read?_isSome_within m cap j h.2 (Option.isSome_iff_ne_none.mpr hne)) (by omega)

theorem Memory.read?_writeBytes_zero (m : Memory) (v : List Byte) (j : Nat) (hj : j < v.length) :
    (m.writeBytes 0 v).read? j = some (v.getD j 0) := by
  rw [Memory.read?_writeBytes, if_pos (by omega), Nat.sub_zero]

/-- A stored string cleared after its first bytes `v` still begins with them. -/
theorem Memory.read?_clearFrom_writeBytes (m : Memory) (d v : List Byte) (hi j : Nat) (hv : v = d.take v.length)
    (hj : j < v.length) : ((m.writeBytes 0 d).clearFrom v.length hi).read? j = some (v.getD j 0) := by
  have hle : v.length ≤ d.length := by
    have := congrArg List.length hv
    rw [List.length_take] at this
    omega
  have hget : v.getD j 0 = d.getD j 0 := by
    rw [List.getD_eq_getElem?_getD, List.getD_eq_getElem?_getD, hv, List.getElem?_take_of_lt hj]
  rw [Memory.read?_clearFrom, if_neg (by omega), Memory.read?_writeBytes_zero _ _ _ (by omega), hget]

/-- A buffer that begins with `v`, cleared after it, is a cleared buffer in which `v` has been stored. -/
theorem BufferForm.clearFrom_eq_stored {m : Memory} {cap : Nat} {v : List Byte} (h : BufferForm m cap)
    (hv : v.length ≤ cap) (hread : ∀ j, j < v.length → m.read? j = some (v.getD j 0)) :
    m.clearFrom v.length cap = (Memory.zeros cap).writeBytes 0 v := by
  refine Memory.ext_of_wf _ _ (h.clearFrom hv le_rfl).1 ((bufferForm_zeros cap).writeBytes (by omega)).1 fun j => ?_
  rw [Memory.read?_clearFrom, Memory.read?_writeBytes, Memory.read?_zeros]
  by_cases hin : j < v.length
  · rw [if_neg (by omega), if_pos (by omega), hread j hin, Nat.sub_zero]
  · by_cases hcap : j < cap
    · rw [if_pos (by omega), if_neg (by omega), if_pos hcap]
    · rw [if_neg (by omega), if_neg (by omega), if_neg hcap, h.read?_of_le (by omega)]

theorem obufBytes_of_read? (s : State) (v : List Byte)
    (hread : ∀ j, j < v.length → s.obuf.read? j = some (v.getD j 0)) : obufBytes s 0 v.length = v := by
  refine List.ext_getElem (by simp [obufBytes]) fun j h1 h2 => ?_
  simp [obufBytes, obufByte, hread j h2, h2]

/-- FINISH of a message command whose result stands in OBUF is the epilogue of R221, whatever the working registers
hold. -/
theorem seqFinish_message (i : Instr) (dir : Direction) (mode : Mode) (hk : seqKind i = .message dir mode)
    (v : List Byte) (s : State) (b cv : Block) (m : Memory) (p : Seq) (hm : BufferForm m (capacity s))
    (hv : v.length ≤ capacity s) (hread : ∀ j, j < v.length → m.read? j = some (v.getD j 0)) :
    seqFinish i { s with sreg := b, cv := cv, obuf := m, olen := BitVec.ofNat 16 v.length, seq := p } =
      finishMessage v s := by
  have hcap := capacity_le s
  have hlen : (BitVec.ofNat 16 v.length).toNat = v.length := by rw [BitVec.toNat_ofNat]; omega
  simp only [seqFinish, hk, outputLength, hlen]
  show complete (clearWorking { s with
    sreg := b, cv := cv, obuf := m.clearFrom v.length (capacity s), olen := BitVec.ofNat 16 v.length, seq := p }) = _
  rw [hm.clearFrom_eq_stored hv hread]
  rfl

/-! ### The input stream -/

/-- The input blocks of a message command. -/
def streamBlocks (dir : Direction) (mode : Mode) (s : State) : List Block :=
  (List.range (dataBlocks dir mode s)).map fun q => streamBlock dir mode q s

theorem streamBlocks_encrypt (mode : Mode) (s : State) :
    streamBlocks .encrypt mode s = blocksOf (pad (inputBytes s)) := by
  have hlen : (pad (inputBytes s)).length / 16 = inputLength s / 16 + 1 := by
    rw [pad_length, inputBytes_length]; omega
  rw [blocksOf, hlen]
  cases mode <;> rfl

theorem streamBlocks_decrypt_ecb (s : State) : streamBlocks .decrypt .ecb s = blocksOf (inputBytes s) := by
  rw [blocksOf, inputBytes_length]
  rfl

theorem blockAt_drop (d : List Byte) (k off : Nat) : blockAt (d.drop k) off = blockAt d (k + off) := by
  refine Block.ext_get _ _ fun i hi => ?_
  rw [blockAt_get _ _ _ hi, blockAt_get _ _ _ hi]
  simp [List.getD_eq_getElem?_getD, Nat.add_assoc]

theorem streamBlocks_decrypt_cbc (s : State) :
    streamBlocks .decrypt .cbc s = blocksOf ((inputBytes s).drop 16) := by
  have hlen : ((inputBytes s).drop 16).length / 16 = inputLength s / 16 - 1 := by
    rw [List.length_drop, inputBytes_length]; omega
  rw [blocksOf, hlen]
  refine List.map_congr_left fun q _ => ?_
  rw [blockAt_drop, Nat.add_comm]
  rfl

/-- The whole block loop. -/
theorem iterate_message (i : Instr) (dir : Direction) (mode : Mode) (hk : seqKind i = .message dir mode) (s : State)
    (hs : s.seq = .blkload 0) (hn : dataBlocks dir mode s ≠ 0) :
    ∃ b cv, (microStep i)^[13 * dataBlocks dir mode s] s =
      afterLoop dir mode 0 (bytesOf (messageLoop dir mode s.rk s.cv (streamBlocks dir mode s))) b cv s := by
  obtain ⟨n, hn⟩ := Nat.exists_eq_succ_of_ne_zero hn
  rw [streamBlocks, hn, List.range_eq_range']
  exact iterate_blocks i dir mode hk n 0 s hs (by omega)

/-! ### Encryption -/

/-- What an encryption puts before its blocks: the IV in CBC (R222). -/
def ivBytes (mode : Mode) (iv : Block) : List Byte :=
  match mode with
  | .ecb => []
  | .cbc => iv.toList

/-- The first chaining variable of an encryption. -/
def encryptChain (mode : Mode) (iv : Block) : Block :=
  match mode with
  | .ecb => Block.zero
  | .cbc => iv

theorem encryptMessage_eq_ivBytes_append (m : List Byte) (rk : Vector Block 11) (mode : Mode) (iv : Block) :
    encryptMessage m rk mode iv =
      ivBytes mode iv ++ bytesOf (messageLoop .encrypt mode rk (encryptChain mode iv) (blocksOf (pad m))) := by
  rw [messageLoop_encrypt]
  cases mode <;> rfl

/-- An encryption after IVGEN, with the random answer `r` left. -/
def encryptStart (mode : Mode) (iv : Block) (r : Option Block) (s : State) : State :=
  { s with
    cv := encryptChain mode iv, obuf := s.obuf.writeBytes 0 (ivBytes mode iv), rngResp := r, seq := .blkload 0 }

theorem encryptedLength_eq_offset_add (mode : Mode) (n : Nat) :
    encryptedLength mode n = outputOffset .encrypt mode + 16 * (n / 16 + 1) := by
  cases mode
  · exact (Nat.zero_add _).symm
  · exact Nat.add_comm _ _

/-- An encryption before FINISH: its result stands in OBUF, and `S` and `CV` hold what the loop left there. -/
def encryptStreamed (mode : Mode) (iv : Block) (r : Option Block) (b cv : Block) (s : State) : State :=
  { s with
    sreg := b, cv := cv, obuf := s.obuf.writeBytes 0 (encryptMessage (inputBytes s) s.rk mode iv)
    olen := BitVec.ofNat 16 (encryptMessage (inputBytes s) s.rk mode iv).length, rngResp := r, seq := .finish }

/-- The blocks of an encryption. -/
theorem iterate_encrypt (i : Instr) (mode : Mode) (hk : seqKind i = .message .encrypt mode) (iv : Block)
    (r : Option Block) (s : State) :
    ∃ b cv, (microStep i)^[13 * (inputLength s / 16 + 1)] (encryptStart mode iv r s) =
      encryptStreamed mode iv r b cv s := by
  have hblocks : dataBlocks .encrypt mode (encryptStart mode iv r s) = inputLength s / 16 + 1 := by cases mode <;> rfl
  have hstream : streamBlocks .encrypt mode (encryptStart mode iv r s) = blocksOf (pad (inputBytes s)) :=
    streamBlocks_encrypt mode _
  obtain ⟨b, cv, hloop⟩ := iterate_message i .encrypt mode hk (encryptStart mode iv r s) rfl (by omega)
  rw [hblocks, hstream] at hloop
  refine ⟨b, cv, hloop.trans ?_⟩
  rw [encryptStreamed, encryptMessage_length_eq, inputBytes_length, encryptedLength_eq_offset_add,
    encryptMessage_eq_ivBytes_append, Memory.writeBytes_append]
  cases mode <;> rfl

/-- An encryption whose checks pass: CHECK, PADGEN, IVGEN, the blocks, FINISH. -/
theorem encrypt_refined (i : Instr) (mode : Mode) (hk : seqKind i = .message .encrypt mode) (iv : Block)
    (r : Option Block) (s : State) (hs : s.seq = .check) (h : BufferForm s.obuf (capacity s))
    (hc : encryptCheck mode s = none)
    (hivgen : seqIvgen i { s with seq := .ivgen } = encryptStart mode iv r s)
    (hexec : exec i s = .next (finishMessage (encryptMessage (inputBytes s) s.rk mode iv) { s with rngResp := r })) :
    RefinedBy i s (13 * (inputLength s / 16 + 1) + 4) := by
  have hcheck : seqCheck i s = { s with seq := .padgen } := by simp only [seqCheck, hk, hc]
  have hpadgen : microStep i { s with seq := .padgen } = { s with seq := .ivgen } := by
    show seqPadgen i _ = _
    simp only [seqPadgen, hk]
  have hivgen' : microStep i { s with seq := .ivgen } = encryptStart mode iv r s := hivgen
  have hfit := encryptMessage_fits mode s iv hc
  obtain ⟨b, cv, hloop⟩ := iterate_encrypt i mode hk iv r s
  refine refinedBy_succ hs hcheck ?_
  rw [Function.iterate_succ_apply, hpadgen, Function.iterate_succ_apply, hivgen', Function.iterate_succ_apply', hloop,
    hexec]
  exact congrArg _ (seqFinish_message i .encrypt mode hk _ { s with rngResp := r } b cv _ .finish
    (h.writeBytes (by omega)) hfit (Memory.read?_writeBytes_zero _ _)).symm

theorem encrypt_refused (i : Instr) (mode : Mode) (hk : seqKind i = .message .encrypt mode) (s : State) (e : ErrKind)
    (hs : s.seq = .check) (hc : encryptCheck mode s = some e) (hexec : exec i s = .next (raise e s)) :
    RefinedBy i s 1 := by
  refine refinedBy_one hs (hexec.trans ?_)
  simp only [seqCheck, hk, hc]

theorem encEcb_refined (s : State) (hs : s.seq = .check) (h : BufferForm s.obuf (capacity s)) :
    ∃ n, RefinedBy .encEcb s n ∧ n ≤ 13 * (inputLength s / 16 + 1) + 4 := by
  cases hc : encryptCheck .ecb s with
  | some e =>
    have hexec : exec .encEcb s = .next (raise e s) := by simp only [exec, execEncEcb, hc]
    exact ⟨1, encrypt_refused _ .ecb rfl s e hs hc hexec, by omega⟩
  | none =>
    have hexec : exec .encEcb s =
        .next (finishMessage (encryptMessage (inputBytes s) s.rk .ecb Block.zero) s) := by
      simp only [exec, execEncEcb, hc]
    exact ⟨_, encrypt_refined _ .ecb rfl Block.zero s.rngResp s hs h hc rfl hexec, le_rfl⟩

theorem encCbc_refined (s : State) (hs : s.seq = .check) (h : BufferForm s.obuf (capacity s))
    (hdraw : ¬ (encryptCheck .cbc s = none ∧ s.rngResp = none)) :
    ∃ n, RefinedBy .encCbc s n ∧ n ≤ 13 * (inputLength s / 16 + 1) + 4 := by
  cases hc : encryptCheck .cbc s with
  | some e => exact ⟨1, encrypt_refused _ .cbc rfl s e hs hc (exec_encCbc_refused s e hc), by omega⟩
  | none =>
    obtain ⟨iv, hr⟩ := Option.ne_none_iff_exists'.mp fun hr => hdraw ⟨hc, hr⟩
    have hivgen : seqIvgen .encCbc { s with seq := .ivgen } = encryptStart .cbc iv none s := by
      simp only [seqIvgen, seqKind, hr]
      rfl
    exact ⟨_, encrypt_refined _ .cbc rfl iv none s hs h hc hivgen (exec_encCbc_answered s iv hc hr), le_rfl⟩

/-- An ENC.CBC whose draw is not answered waits in IVGEN (R280). -/
theorem encCbc_waits (s : State) (hs : s.seq = .check) (hc : encryptCheck .cbc s = none) (hr : s.rngResp = none)
    (n : Nat) : (microStep .encCbc)^[n + 2] s = { s with seq := .ivgen } := by
  have hwait : Function.IsFixedPt (microStep .encCbc) { s with seq := .ivgen } := by
    show seqIvgen .encCbc _ = _
    simp only [seqIvgen, seqKind, hr]
  have hcheck : seqCheck .encCbc s = { s with seq := .padgen } := by simp only [seqCheck, seqKind, hc]
  rw [Function.iterate_succ_apply, microStep_check _ s hs, hcheck, Function.iterate_succ_apply]
  exact hwait.iterate n

/-! ### Decryption -/

/-- The first chaining variable of a decryption: the first block of a CBC ciphertext (R223). -/
def decryptChain (mode : Mode) (s : State) : Block :=
  match mode with
  | .ecb => Block.zero
  | .cbc => blockAt (inputBytes s) 0

theorem decryptStream_eq_messageLoop (mode : Mode) (s : State) :
    decryptStream (inputBytes s) s.rk mode =
      bytesOf (messageLoop .decrypt mode s.rk (decryptChain mode s) (streamBlocks .decrypt mode s)) := by
  rw [messageLoop_decrypt]
  cases mode with
  | ecb => rw [streamBlocks_decrypt_ecb]; rfl
  | cbc => rw [streamBlocks_decrypt_cbc]; rfl

theorem decryptStream_length (mode : Mode) (s : State) :
    (decryptStream (inputBytes s) s.rk mode).length = 16 * dataBlocks .decrypt mode s := by
  rw [decryptStream_eq_messageLoop, bytesOf_length, messageLoop_decrypt, decryptLoop_length, streamBlocks,
    List.length_map, List.length_range]

/-- A decryption before UNPADCHK: its stream stands in OBUF, and `S` and `CV` hold what the loop left there. -/
def decryptStreamed (mode : Mode) (b cv : Block) (s : State) : State :=
  { s with
    sreg := b, cv := cv, obuf := s.obuf.writeBytes 0 (decryptStream (inputBytes s) s.rk mode), seq := .unpadchk }

theorem seqIvgen_decrypt (i : Instr) (mode : Mode) (hk : seqKind i = .message .decrypt mode) (s : State)
    (hlen : inputLength s / 16 ≠ 0) :
    seqIvgen i { s with seq := .ivgen } =
      { s with
        cv := decryptChain mode s
        seq := if dataBlocks .decrypt mode s = 0 then .unpadchk else .blkload 0 } := by
  cases mode with
  | ecb =>
    simp only [seqIvgen, hk]
    rw [if_neg (show dataBlocks .decrypt .ecb s ≠ 0 from hlen)]
    rfl
  | cbc =>
    simp only [seqIvgen, hk]
    rfl

/-- IVGEN and the blocks of a decryption; a CBC ciphertext may have none. -/
theorem iterate_decrypt (i : Instr) (mode : Mode) (hk : seqKind i = .message .decrypt mode) (s : State)
    (hlen : inputLength s / 16 ≠ 0) :
    ∃ b cv, (microStep i)^[13 * dataBlocks .decrypt mode s + 1] { s with seq := .ivgen } =
      decryptStreamed mode b cv s := by
  have hivgen : microStep i { s with seq := .ivgen } = _ := seqIvgen_decrypt i mode hk s hlen
  rw [Function.iterate_succ_apply, hivgen]
  by_cases hnone : dataBlocks .decrypt mode s = 0
  · have hstream : decryptStream (inputBytes s) s.rk mode = [] :=
      List.eq_nil_of_length_eq_zero (by rw [decryptStream_length, hnone])
    rw [if_pos hnone, hnone]
    refine ⟨s.sreg, decryptChain mode s, ?_⟩
    rw [decryptStreamed, hstream]
    rfl
  · rw [if_neg hnone]
    have hblocks : dataBlocks .decrypt mode { s with cv := decryptChain mode s, seq := .blkload 0 } =
        dataBlocks .decrypt mode s := by cases mode <;> rfl
    have hstream : streamBlocks .decrypt mode { s with cv := decryptChain mode s, seq := .blkload 0 } =
        streamBlocks .decrypt mode s := by cases mode <;> rfl
    obtain ⟨b, cv, hloop⟩ := iterate_message i .decrypt mode hk
      { s with cv := decryptChain mode s, seq := .blkload 0 } rfl (by rwa [hblocks])
    rw [hblocks, hstream] at hloop
    refine ⟨b, cv, hloop.trans ?_⟩
    rw [decryptStreamed, decryptStream_eq_messageLoop]
    cases mode <;> rfl

/-- What `unpad` accepts begins with its result. -/
theorem unpad_eq_take (d m : List Byte) (h : unpad d = some m) : m = d.take m.length := by
  unfold unpad at h
  split_ifs at h
  obtain rfl := Option.some.inj h
  simp

theorem exec_decrypt (i : Instr) (mode : Mode) (s : State) (hk : seqKind i = .message .decrypt mode) :
    exec i s = decryptCommand mode s := by
  cases i with
  | decEcb | decCbc => cases hk; rfl
  | _ => cases hk

theorem dataBlocks_decryptStreamed (mode : Mode) (b cv : Block) (s : State) :
    dataBlocks .decrypt mode (decryptStreamed mode b cv s) = dataBlocks .decrypt mode s := by
  cases mode <;> rfl

/-- UNPADCHK reads back the stream. -/
theorem unpad_decryptStreamed (mode : Mode) (b cv : Block) (s : State) :
    unpad (obufBytes (decryptStreamed mode b cv s) 0 (16 * dataBlocks .decrypt mode (decryptStreamed mode b cv s))) =
      decryptMessage (inputBytes s) s.rk mode := by
  rw [dataBlocks_decryptStreamed, ← decryptStream_length, obufBytes_of_read? _ _ (Memory.read?_writeBytes_zero s.obuf _), decryptMessage]

/-- A decryption: CHECK, IVGEN, the blocks, UNPADCHK, FINISH. -/
theorem decrypt_refined (i : Instr) (mode : Mode) (hk : seqKind i = .message .decrypt mode) (s : State)
    (hs : s.seq = .check) (h : BufferForm s.obuf (capacity s)) :
    ∃ n, RefinedBy i s n ∧ n ≤ 13 * (inputLength s / 16 + 1) + 4 := by
  have hexec := exec_decrypt i mode s hk
  cases hc : decryptCheck s with
  | some e =>
    refine ⟨1, refinedBy_one hs ?_, by omega⟩
    simp only [hexec, decryptCommand, seqCheck, hk, hc]
  | none =>
    obtain ⟨-, hfit, hgood⟩ := decryptCheck_none s hc
    have hlen : inputLength s / 16 ≠ 0 := by simp [badCiphertextLength] at hgood; omega
    have hcheck : seqCheck i s = { s with seq := .ivgen } := by simp only [seqCheck, hk, hc]
    have hcount : dataBlocks .decrypt mode s ≤ inputLength s / 16 := by
      cases mode <;> simp only [dataBlocks] <;> omega
    obtain ⟨b, cv, hloop⟩ := iterate_decrypt i mode hk s hlen
    have hunpad := unpad_decryptStreamed mode b cv s
    cases hm : decryptMessage (inputBytes s) s.rk mode with
    | none =>
      rw [hm] at hunpad
      refine ⟨13 * dataBlocks .decrypt mode s + 3, refinedBy_succ hs hcheck ?_, by omega⟩
      rw [Function.iterate_succ_apply', hloop]
      show _ = Host.Outcome.next (seqUnpadchk i _)
      simp only [hexec, decryptCommand, hc, hm, seqUnpadchk, hk, hunpad]
      rfl
    | some m =>
      rw [hm] at hunpad
      refine ⟨13 * dataBlocks .decrypt mode s + 4, refinedBy_succ hs hcheck ?_, by omega⟩
      rw [Function.iterate_succ_apply', Function.iterate_succ_apply', hloop]
      show _ = Host.Outcome.next (microStep i (seqUnpadchk i _))
      simp only [hexec, decryptCommand, hc, hm, seqUnpadchk, hk, hunpad]
      have hblocks := dataBlocks_decryptStreamed mode b cv s
      have hstream := decryptStream_length mode s
      have hshort := decryptMessage_length_lt _ _ _ _ hm
      rw [inputBytes_length] at hshort
      refine congrArg _ (seqFinish_message i .decrypt mode hk m s b cv _ .finish ?_ (by omega) fun j hj => ?_).symm
      · exact (h.writeBytes (by omega)).clearFrom (by omega) (by omega)
      · exact Memory.read?_clearFrom_writeBytes _ _ m _ j (unpad_eq_take _ m hm) hj

/-- Settles O57, command by command. -/
theorem sequencerRefinesMessages : Obligations.SequencerRefinesMessages := by
  intro s i h hb hd hi
  have hs : s.seq = .check := by rw [h.sequencer, hb, if_pos rfl]
  refine ⟨fun hdraw => ?_, ?_⟩
  · have hrefined : ∃ n, RefinedBy i s n ∧ n ≤ 13 * (inputLength s / 16 + 1) + 4 := by
      obtain rfl | rfl | rfl | rfl := hi
      · exact encEcb_refined s hs h.output
      · exact encCbc_refined s hs h.output fun hc => hdraw ⟨rfl, hc⟩
      · exact decrypt_refined _ .ecb rfl s hs h.output
      · exact decrypt_refined _ .cbc rfl s hs h.output
    obtain ⟨n, hn, hle⟩ := hrefined
    exact ⟨n, hn.run hd, hle⟩
  · rintro ⟨rfl, hc, hr⟩ n hn
    obtain ⟨k, rfl⟩ := Nat.exists_eq_add_of_le' hn
    rw [seqRun_eq_iterate _ _ s hd, encCbc_waits s hs hc hr]

end Sys2Proof.Machine
end

section
/-! PROOFS. The host port (`20_memory.md` R61 to R64): the address map with its inverse, what one host transaction does,
and reads after writes. -/

namespace Sys2Proof.Machine

open Sys2Proof

/-! ### The address map -/

/-- The eight single addresses at the bottom of the map. -/
theorem regionOf_register (cap : Nat) (a : BitVec 16) (n : Nat) (hn : n < 8) (h : a.toNat = n) :
    regionOf cap a =
      [.cmd, .status, .errcode, .klen, .ilenLo, .ilenHi, .olenLo, .olenHi].getD n Region.reserved := by
  rw [regionOf_toNat, h]
  interval_cases n <;> rfl

/-- The address at which a region stands: the inverse of the address map (R61). A reserved address has none. -/
def Region.address : Region → Nat
  | .cmd => 0x0000
  | .status => 0x0001
  | .errcode => 0x0002
  | .klen => 0x0003
  | .ilenLo => 0x0004
  | .ilenHi => 0x0005
  | .olenLo => 0x0006
  | .olenHi => 0x0007
  | .key i => 0x0010 + i
  | .sreg i => 0x0020 + i
  | .ibuf j => 0x4000 + j
  | .obuf j => 0x8000 + j
  | .reserved => 0x0000

theorem regionOf_address (cap : Nat) (a : BitVec 16) (r : Region) (h : regionOf cap a = r) (hr : r ≠ .reserved) :
    r.address = a.toNat := by
  rw [regionOf_toNat] at h
  iterate 12
    obtain ⟨hrange, rfl⟩ | ⟨-, h⟩ := ite_eq_cases h
    · simp only [Region.address]
      omega
  exact absurd h.symm hr

/-- Different addresses that are not reserved are different bytes. -/
theorem regionOf_injective (cap : Nat) (a b : BitVec 16) (r : Region) (ha : regionOf cap a = r)
    (hb : regionOf cap b = r) (hr : r ≠ .reserved) : a = b :=
  BitVec.eq_of_toNat_eq ((regionOf_address cap a r ha hr).symm.trans (regionOf_address cap b r hb hr))

/-- Only address 0000 is CMD. -/
theorem regionOf_ne_cmd (cap : Nat) (a : BitVec 16) (h : a ≠ 0x0000) : regionOf cap a ≠ .cmd :=
  fun hc => h (regionOf_injective cap a 0x0000 .cmd hc rfl nofun)

/-! ### One transaction -/

theorem engineTurn_idle (s : State) (hb : s.busy = false) : engineTurn s = .next s := by
  simp [engineTurn, hb]

theorem hostRead_busy_status (s : State) (hb : s.busy = true) :
    hostRead 0x0001 s = respond 0x0001 (statusByte s) s := by
  simp [hostRead, hb]

theorem hostRead_busy_other (a : BitVec 16) (s : State) (hb : s.busy = true) (ha : a ≠ 0x0001) :
    hostRead a s = respond a (Config.busyReadByte s.draws) { s with draws := s.draws + 1 } := by
  simp only [hostRead, hb, if_true, if_neg ha]

theorem hostWrite_busy (a : BitVec 16) (d : Byte) (s : State) (hb : s.busy = true) : hostWrite a d s = s := by
  simp [hostWrite, hb]

theorem hostWrite_idle (a : BitVec 16) (d : Byte) (s : State) (hb : s.busy = false) :
    hostWrite a d s = regionWrite (regionOf (capacity s) a) d s := by
  simp [hostWrite, hb]

theorem step_of_read (s : State) (a : BitVec 16) (rest : List Event) (h : s.inbox = .read a :: rest) :
    step s = .next (hostRead a { s with inbox := rest }) :=
  step_of_event s _ rest h

theorem step_of_write (s : State) (a : BitVec 16) (d : Byte) (rest : List Event) (h : s.inbox = .write a d :: rest) :
    step s = .next (hostWrite a d { s with inbox := rest }) :=
  step_of_event s _ rest h

/-- No region of the address map shows the inbox. -/
theorem regionRead_inbox (s : State) (es : List Event) (r : Region) :
    regionRead { s with inbox := es } r = regionRead s r := by
  cases r <;> rfl

/-- A read of an idle engine returns the byte of the region at the address. -/
theorem step_of_idle_read (s : State) (a : BitVec 16) (rest : List Event) (hb : s.busy = false)
    (h : s.inbox = .read a :: rest) :
    step s = .next { s with
      inbox := rest, reads := (a, regionRead s (regionOf (capacity s) a)) :: s.reads } := by
  rw [step_of_read s a rest h, hostRead_idle a { s with inbox := rest } hb, regionRead_inbox]
  rfl

/-- A write to an idle engine is the write to the region at the address. -/
theorem step_of_idle_write (s : State) (a : BitVec 16) (d : Byte) (rest : List Event) (r : Region)
    (hb : s.busy = false) (h : s.inbox = .write a d :: rest) (hr : regionOf (capacity s) a = r) :
    step s = .next (regionWrite r d { s with inbox := rest }) := by
  rw [step_of_write s a d rest h, hostWrite_idle a d { s with inbox := rest } hb, ← hr]
  rfl

/-! ### Read after write -/

@[simp] theorem lowByte_setLowByte (v : BitVec 16) (d : Byte) : lowByte (setLowByte v d) = d := by
  refine BitVec.eq_of_toNat_eq ?_
  rw [lowByte_toNat, setLowByte_toNat]
  omega

@[simp] theorem highByte_setLowByte (v : BitVec 16) (d : Byte) : highByte (setLowByte v d) = highByte v := by
  refine BitVec.eq_of_toNat_eq ?_
  rw [highByte_toNat, highByte_toNat, setLowByte_toNat]
  omega

@[simp] theorem highByte_setHighByte (v : BitVec 16) (d : Byte) : highByte (setHighByte v d) = d := by
  refine BitVec.eq_of_toNat_eq ?_
  rw [highByte_toNat, setHighByte_toNat]
  omega

@[simp] theorem lowByte_setHighByte (v : BitVec 16) (d : Byte) : lowByte (setHighByte v d) = lowByte v := by
  refine BitVec.eq_of_toNat_eq ?_
  rw [lowByte_toNat, lowByte_toNat, setHighByte_toNat]
  omega

/-- A byte written in a block changes that byte and no other. -/
theorem Block.set_changes_only (b : Block) (i : Nat) (d : Byte) (hi : i < 16) :
    (b.set i d).get i = d ∧ ∀ k, k < 16 → k ≠ i → (b.set i d).get k = b.get k :=
  ⟨(Block.get_set b i i d hi hi).trans (if_pos rfl),
    fun k hk hki => (Block.get_set b i k d hi hk).trans (if_neg hki.symm)⟩

theorem ibufByte_write (s : State) (j k : Nat) (d : Byte) :
    ibufByte { s with ibuf := s.ibuf.write j d } k = if j = k then d else ibufByte s k := by
  simp only [ibufByte, Memory.read?_write]
  by_cases h : j = k
  · rw [if_pos h, if_pos h]
  · rw [if_neg h, if_neg h]

/-- The regions that a host can both read and write, CMD, KEY, the read-only and the reserved ones left out (R61). -/
def Region.readWrite : Region → Prop
  | .klen | .ilenLo | .ilenHi | .ibuf _ => True
  | .sreg i => i < 16
  | .cmd | .status | .errcode | .olenLo | .olenHi | .key _ | .obuf _ | .reserved => False

/-- The RW addresses of R61 stand for regions a host can both read and write. -/
theorem regionOf_readWrite (cap : Nat) (a : BitVec 16)
    (h : a = 0x0003 ∨ a = 0x0004 ∨ a = 0x0005 ∨ (0x0020 ≤ a.toNat ∧ a.toNat ≤ 0x002F) ∨
      (0x4000 ≤ a.toNat ∧ a.toNat < 0x4000 + cap)) : (regionOf cap a).readWrite := by
  obtain rfl | rfl | rfl | ⟨h1, h2⟩ | ⟨h1, h2⟩ := h
  · exact trivial
  · exact trivial
  · exact trivial
  · have hi : a.toNat - 0x0020 < 16 := by omega
    rw [regionOf_sreg cap a _ hi (by omega)]
    exact hi
  · rw [regionOf_ibuf cap a (a.toNat - 0x4000) (by omega) (by omega)]
    exact trivial

theorem regionRead_regionWrite_same (s : State) (r : Region) (d : Byte) (hr : r.readWrite) :
    regionRead (regionWrite r d s) r = d := by
  cases r with
  | klen => rfl
  | ilenLo => exact lowByte_setLowByte s.ilen d
  | ilenHi => exact highByte_setHighByte s.ilen d
  | sreg i => exact (Block.set_changes_only s.sreg i d hr).1
  | ibuf j => exact (ibufByte_write s j j d).trans (if_pos rfl)
  | cmd | status | errcode | olenLo | olenHi | key | obuf | reserved => exact hr.elim

/-- A write at a region is seen at no other region. CMD, which starts a command, is left out. -/
theorem regionRead_regionWrite_other (s : State) (r q : Region) (d : Byte) (hr : r ≠ .cmd) (hq : q ≠ r)
    (hri : ∀ i, r = .sreg i → i < 16) (hqi : ∀ i, q = .sreg i → i < 16) :
    regionRead (regionWrite r d s) q = regionRead s q := by
  cases r with
  | cmd => exact absurd rfl hr
  | status | errcode | olenLo | olenHi | obuf | reserved => rfl
  | key => cases q <;> rfl
  | klen =>
    cases q with
    | klen => exact absurd rfl hq
    | _ => rfl
  | ilenLo =>
    cases q with
    | ilenLo => exact absurd rfl hq
    | ilenHi => exact highByte_setLowByte s.ilen d
    | _ => rfl
  | ilenHi =>
    cases q with
    | ilenHi => exact absurd rfl hq
    | ilenLo => exact lowByte_setHighByte s.ilen d
    | _ => rfl
  | sreg i =>
    cases q with
    | sreg k =>
      have hki : k ≠ i := fun h => hq (h ▸ rfl)
      exact (Block.set_changes_only s.sreg i d (hri i rfl)).2 k (hqi k rfl) hki
    | _ => rfl
  | ibuf j =>
    cases q with
    | ibuf k =>
      have hjk : j ≠ k := fun h => hq (h ▸ rfl)
      exact (ibufByte_write s j k d).trans (if_neg hjk)
    | _ => rfl

end Sys2Proof.Machine
end

section
/-! PROOFS. What the host sees and does at every address, engine idle or busy (`20_memory.md` R61 to R64, R72). -/

namespace Sys2Proof.Machine

open Sys2Proof

/-- Settles O9: the step is the engine's turn, and an idle engine does nothing at it. -/
theorem idleEngineIsQuiet : Obligations.IdleEngineIsQuiet := by
  intro s rest hb ht
  rw [step_of_turn s rest ht]
  exact engineTurn_idle _ hb

/-- Settles O12: only STATUS is read as it is. -/
theorem busyHostRead : Obligations.BusyHostRead := by
  intro s a rest hb h
  rw [step_of_read s a rest h]
  refine ⟨?_, fun ha => ⟨Config.busyReadByte s.draws, ?_⟩⟩
  · rintro rfl
    exact congrArg _ (hostRead_busy_status { s with inbox := rest } hb)
  · exact congrArg _ (hostRead_busy_other a { s with inbox := rest } hb ha)

/-- Settles O14. -/
theorem busyHostWriteDropped : Obligations.BusyHostWriteDropped := by
  intro s a d rest hb h
  rw [step_of_write s a d rest h]
  exact congrArg _ (hostWrite_busy a d _ hb)

/-- Settles O11: each clause is the byte of the region at the address. -/
theorem idleHostRead : Obligations.IdleHostRead := by
  intro s a rest hb h
  have hcap := capacity_le s
  have region {r : Region} (hr : regionOf (capacity s) a = r) :
      regionRead s (regionOf (capacity s) a) = regionRead s r := congrArg _ hr
  have register (n : Nat) (hn : n < 8) (ha : a.toNat = n) := region (regionOf_register (capacity s) a n hn ha)
  refine ⟨_, step_of_idle_read s a rest hb h, register 0 (by omega), register 1 (by omega), register 2 (by omega),
    register 3 (by omega), fun ha => ?ilenLo, fun ha => ?ilenHi, fun ha => ?olenLo, fun ha => ?olenHi, ?reservedOrKey,
    fun i hi ha => region (regionOf_sreg _ a i hi ha), fun ⟨h1, h2⟩ => region (regionOf_reserved_mid _ a h1 h2),
    fun j hj ha => region (regionOf_ibuf _ a j hj ha), fun ⟨h1, h2⟩ => region (regionOf_reserved_high _ a h1 h2),
    fun j hj ha => region (regionOf_obuf _ a j hcap hj ha), fun h1 => region (regionOf_reserved_top _ a hcap h1)⟩
  case ilenLo => exact (congrArg _ (register 4 (by omega) ha)).trans (lowByte_toNat s.ilen)
  case ilenHi => exact (congrArg _ (register 5 (by omega) ha)).trans (highByte_toNat s.ilen)
  case olenLo => exact (congrArg _ (register 6 (by omega) ha)).trans (lowByte_toNat s.olen)
  case olenHi => exact (congrArg _ (register 7 (by omega) ha)).trans (highByte_toNat s.olen)
  case reservedOrKey =>
    rintro ⟨h1, h2⟩
    by_cases hkey : 0x0010 ≤ a.toNat
    · exact region (regionOf_key _ a (a.toNat - 0x0010) (by omega) (by omega))
    · exact region (regionOf_reserved_low _ a h1 (by omega))

/-- Settles O13: each clause is the write to the region at the address. -/
theorem idleHostWrite : Obligations.IdleHostWrite := by
  intro s a d rest hb h
  have hcap := capacity_le s
  have region {r : Region} (hr : regionOf (capacity s) a = r) := step_of_idle_write s a d rest r hb h hr
  have register (n : Nat) (hn : n < 8) (ha : a.toNat = n) := region (regionOf_register (capacity s) a n hn ha)
  refine ⟨?statusOrErrcode, register 3 (by omega),
    fun ha => ⟨_, register 4 (by omega) ha, setLowByte_toNat s.ilen d⟩,
    fun ha => ⟨_, register 5 (by omega) ha, setHighByte_toNat s.ilen d⟩, ?olenOrReserved,
    fun i hi ha => ⟨_, region (regionOf_key _ a i hi ha), Block.set_changes_only s.key i d hi⟩,
    fun i hi ha => ⟨_, region (regionOf_sreg _ a i hi ha), Block.set_changes_only s.sreg i d hi⟩,
    fun ⟨h1, h2⟩ => region (regionOf_reserved_mid _ a h1 h2),
    fun j hj ha => ⟨_, region (regionOf_ibuf _ a j hj ha), Memory.read?_write_same s.ibuf j d,
      fun k hk => Memory.read?_write_other s.ibuf j k d hk.symm⟩, ?obufOrReserved⟩
  case statusOrErrcode =>
    rintro ⟨h1, h2⟩
    obtain ha | ha : a.toNat = 1 ∨ a.toNat = 2 := by omega
    · exact register 1 (by omega) ha
    · exact register 2 (by omega) ha
  case olenOrReserved =>
    rintro ⟨h1, h2⟩
    obtain ha | ha | ha : a.toNat = 6 ∨ a.toNat = 7 ∨ 8 ≤ a.toNat := by omega
    · exact register 6 (by omega) ha
    · exact register 7 (by omega) ha
    · exact region (regionOf_reserved_low _ a ha h2)
  case obufOrReserved =>
    intro h1
    by_cases hhigh : a.toNat ≤ 0x7FFF
    · exact region (regionOf_reserved_high _ a h1 hhigh)
    · by_cases hobuf : a.toNat < 0x8000 + capacity s
      · exact region (regionOf_obuf _ a (a.toNat - 0x8000) hcap (by omega) (by omega))
      · exact region (regionOf_reserved_top _ a hcap (by omega))

/-- Settles O15: different addresses are different regions, or both are reserved. -/
theorem readAfterHostWrite : Obligations.ReadAfterHostWrite := by
  intro s a b d hb ha
  rw [hostWrite_idle a d s hb]
  refine ⟨fun hrw => regionRead_regionWrite_same s _ d (regionOf_readWrite _ a hrw), fun hba => ?_⟩
  by_cases hreserved : regionOf (capacity s) a = .reserved
  · rw [hreserved]
    rfl
  · have hne : regionOf (capacity s) b ≠ regionOf (capacity s) a := fun h =>
      hba (regionOf_injective _ b a _ h rfl hreserved)
    obtain ⟨-, hai, -⟩ := regionOf_bounds (capacity s) a
    obtain ⟨-, hbi, -⟩ := regionOf_bounds (capacity s) b
    exact regionRead_regionWrite_other s _ _ d (regionOf_ne_cmd _ a ha) hne hai hbi

end Sys2Proof.Machine
end

section
/-! PROOFS. The decoder field by field and format by format, and its inverse, the encoder (`30_encoding.md` R92, R93,
R100 to R102). -/

namespace Sys2Proof

/-! ### The two fields of a command byte -/

@[simp] theorem grpField_commandByte (grp fn : BitVec 4) : grpField (commandByte grp fn) = grp :=
  BitVec.extractLsb'_append_eq_left

@[simp] theorem fnField_commandByte (grp fn : BitVec 4) : fnField (commandByte grp fn) = fn :=
  BitVec.extractLsb'_append_eq_right

theorem commandByte_fields (b : Byte) : commandByte (grpField b) (fnField b) = b := by
  revert b
  decide

theorem commandByte_toNat (grp fn : BitVec 4) : (commandByte grp fn).toNat = 16 * grp.toNat + fn.toNat := by
  revert grp fn
  decide

/-! ### One equation per group -/

theorem decode_keyloadGroup (fn : BitVec 4) :
    decode (commandByte 0 fn) = if fn = 1 then .ok .keyload else .error (.function 0 fn) := by simp [decode]

theorem decode_messageGroup (fn : BitVec 4) : decode (commandByte 1 fn) = decodeMessage fn := by simp [decode]

theorem decode_blockGroup (fn : BitVec 4) : decode (commandByte 2 fn) = decodeBlock fn := by simp [decode]

theorem decode_roundGroup (fn : BitVec 4) : decode (commandByte 3 fn) = decodeRound fn := by simp [decode]

theorem decode_unitGroup (fn : BitVec 4) : decode (commandByte 4 fn) = decodeUnit fn := by simp [decode]

theorem decode_paddingGroup (fn : BitVec 4) : decode (commandByte 5 fn) = decodePadding fn := by simp [decode]

theorem decode_roundKeyGroup (fn : BitVec 4) : decode (commandByte 6 fn) = decodeRoundKey fn := by simp [decode]

theorem decode_reservedGroup (grp fn : BitVec 4) (h : 7 ≤ grp.toNat) :
    decode (commandByte grp fn) = .error (.group grp) := by
  simp only [decode, grpField_commandByte]
  split
  case h_8 => rfl
  all_goals omega

theorem group_cases (grp : BitVec 4) :
    grp = 0 ∨ grp = 1 ∨ grp = 2 ∨ grp = 3 ∨ grp = 4 ∨ grp = 5 ∨ grp = 6 ∨ 7 ≤ grp.toNat := by
  revert grp
  decide

/-! ### Each format against the opcode map -/

/-- The opcode map of R100 as a check on the two fields: the functions each group defines (R93). -/
def legalFunction (grp fn : BitVec 4) : Bool :=
  match grp.toNat with
  | 0 => fn.toNat = 1
  | 1 => fn.toNat ≤ 3
  | 2 => fn.toNat ≤ 1
  | 3 => fn.toNat ≤ 5
  | 4 => fn.toNat ≤ 4
  | 5 => fn.toNat ≤ 1
  | 6 => fn.toNat ≤ 10
  | _ => false

/-- What byte `b` may be read as: a well-formed command whose byte it is when it is `legal`, no command when not. -/
def soundReading (b : Byte) (legal : Bool) : Except Reserved Instr → Bool
  | .ok i => legal && i.wellFormed && decide (encode i = b)
  | .error _ => !legal

@[simp] theorem soundReading_ok (b : Byte) (legal : Bool) (i : Instr) :
    soundReading b legal (.ok i) = true ↔ legal = true ∧ i.wellFormed = true ∧ encode i = b := by
  simp [soundReading, and_assoc]

@[simp] theorem soundReading_error (b : Byte) (legal : Bool) (e : Reserved) :
    soundReading b legal (.error e) = true ↔ legal = false := by
  simp [soundReading]

/-- A decoder of one group's `fn` field that keeps to the opcode map. -/
def SoundFormat (grp : BitVec 4) (format : BitVec 4 → Except Reserved Instr) : Prop :=
  ∀ fn, soundReading (commandByte grp fn) (legalFunction grp fn) (format fn) = true

theorem decodeMessage_sound : SoundFormat 1 decodeMessage := by unfold SoundFormat; decide

theorem decodeBlock_sound : SoundFormat 2 decodeBlock := by unfold SoundFormat; decide

theorem decodeRound_sound : SoundFormat 3 decodeRound := by unfold SoundFormat; decide

theorem decodeUnit_sound : SoundFormat 4 decodeUnit := by unfold SoundFormat; decide

theorem decodePadding_sound : SoundFormat 5 decodePadding := by unfold SoundFormat; decide

theorem decodeRoundKey_sound : SoundFormat 6 decodeRoundKey := by
  intro fn
  unfold decodeRoundKey
  split
  next hk => exact (soundReading_ok ..).2 ⟨decide_eq_true hk, decide_eq_true hk, rfl⟩
  next hk => exact (soundReading_error ..).2 (decide_eq_false hk)

theorem legalFunction_reservedGroup (grp fn : BitVec 4) (h : 7 ≤ grp.toNat) : legalFunction grp fn = false := by
  unfold legalFunction
  split
  case h_8 => rfl
  all_goals omega

/-- The decoder keeps to the opcode map, group by group. -/
theorem decode_sound (grp fn : BitVec 4) :
    soundReading (commandByte grp fn) (legalFunction grp fn) (decode (commandByte grp fn)) = true := by
  obtain rfl | rfl | rfl | rfl | rfl | rfl | rfl | h := group_cases grp
  · rw [decode_keyloadGroup]
    revert fn
    decide
  · rw [decode_messageGroup]
    exact decodeMessage_sound fn
  · rw [decode_blockGroup]
    exact decodeBlock_sound fn
  · rw [decode_roundGroup]
    exact decodeRound_sound fn
  · rw [decode_unitGroup]
    exact decodeUnit_sound fn
  · rw [decode_paddingGroup]
    exact decodePadding_sound fn
  · rw [decode_roundKeyGroup]
    exact decodeRoundKey_sound fn
  · rw [decode_reservedGroup grp fn h]
    exact (soundReading_error ..).2 (legalFunction_reservedGroup grp fn h)

/-! ### Decoding and encoding are inverse -/

theorem encode_of_decode (b : Byte) (i : Instr) (h : decode b = .ok i) : i.wellFormed = true ∧ encode i = b := by
  have hsound := decode_sound (grpField b) (fnField b)
  rw [commandByte_fields, h, soundReading_ok] at hsound
  exact hsound.2

theorem decode_encode (i : Instr) (h : i.wellFormed = true) : decode (encode i) = .ok i := by
  cases i with
  | addroundkey k => exact (decode_roundKeyGroup k).trans (if_pos (of_decide_eq_true h))
  | _ => rfl

/-- A byte is a reserved encoding exactly when its group does not define its function (R101). -/
theorem decode_error_iff (grp fn : BitVec 4) :
    (∃ e, decode (commandByte grp fn) = .error e) ↔ legalFunction grp fn = false := by
  have hsound := decode_sound grp fn
  cases hd : decode (commandByte grp fn) with
  | ok i =>
    rw [hd, soundReading_ok] at hsound
    simp [hsound.1]
  | error e =>
    rw [hd, soundReading_error] at hsound
    simp [hsound]

/-- Settles O2: the decoder keeps to the opcode map, so it and the encoder are inverse, and the encoder is injective. -/
theorem decodeEncodeAgree : Obligations.DecodeEncodeAgree := by
  refine ⟨decode_encode, encode_of_decode, fun i j hi hj h => ?_⟩
  have hij : (.ok i : Except Reserved Instr) = .ok j := by rw [← decode_encode i hi, h, decode_encode j hj]
  exact Except.ok.inj hij

/-- Settles O1: nine closed evaluations of the decoder. -/
theorem commandBytesDecodeAsTable : Obligations.CommandBytesDecodeAsTable := by
  unfold Obligations.CommandBytesDecodeAsTable
  decide

/-- Settles O3, group by group: in each, the bytes of the list are those whose function is not in the opcode map. -/
theorem reservedEncodings : Obligations.ReservedEncodings := by
  intro b
  rw [← commandByte_fields b, decode_error_iff, commandByte_toNat]
  have hfn := (fnField b).isLt
  unfold legalFunction
  split
  case h_8 =>
    simp only [true_iff, imp_false] at *
    omega
  all_goals
    rw [decide_eq_false_iff_not]
    omega

end Sys2Proof
end

section
/-! PROOFS. The engine's turn and acceptance: what one step does with a command byte (`30_encoding.md` R94). -/

namespace Sys2Proof.Machine

open Sys2Proof

/-! ### The engine's turn -/

theorem engineTurn_of_decode (s : State) (i : Instr) (hb : s.busy = true) (hd : decode s.opc = .ok i) :
    engineTurn s = exec i s := by
  simp only [engineTurn, hb, hd, if_true]

/-- The end of every completion step (R94): BUSY 0, DONE 1, idle. -/
def Completed (t : State) : Prop := t.busy = false ∧ t.done = true ∧ t.seq = .idle

theorem completed_complete (s : State) : Completed (complete s) := ⟨rfl, rfl, rfl⟩

theorem completed_raise (e : ErrKind) (s : State) : Completed (raise e s) := completed_complete _

/-- Only an ENC.CBC whose draw is not answered does not complete. -/
theorem ExecShape.completed {i : Instr} {s t : State} (h : ExecShape i s t)
    (hwait : ¬ (i = .encCbc ∧ encryptCheck .cbc s = none ∧ s.rngResp = none)) : Completed t := by
  cases h with
  | error | keyLength => exact completed_raise _ _
  | keyload | block | output | message => exact completed_complete _
  | waiting hi hc hr => exact absurd ⟨hi, hc, hr⟩ hwait

theorem engineTurn_completes (s : State) (hb : s.busy = true)
    (hwait : ¬ (s.opc = 0x11 ∧ encryptCheck .cbc s = none ∧ s.rngResp = none)) :
    ∃ t, engineTurn s = .next t ∧ Completed t := by
  obtain ⟨t, ht, ⟨hidle, -⟩ | ⟨-, -, rfl⟩ | ⟨-, i, hd, hs⟩⟩ := engineTurn_shape s
  · exact Bool.noConfusion (hidle.symm.trans hb)
  · exact ⟨_, ht, completed_raise _ s⟩
  · refine ⟨t, ht, hs.completed fun ⟨hi, hdraw⟩ => hwait ⟨?_, hdraw⟩⟩
    rw [← (encode_of_decode _ _ hd).2, hi]
    rfl

/-- Settles O55: 0x11 is the one byte of ENC.CBC, and every other completion step completes. -/
theorem commandsComplete : Obligations.CommandsComplete := by
  intro s rest hb hturn hwait
  rw [step_of_turn s rest hturn]
  exact engineTurn_completes { s with inbox := rest } hb hwait

/-- Settles O4, for both kinds of engine's turn. -/
theorem stepRunsDecodedCommand : Obligations.StepRunsDecodedCommand := by
  intro s i hb hd
  refine ⟨fun hin => ?_, fun rest hin => ?_⟩
  · rw [step_of_empty s hin]
    exact engineTurn_of_decode s i hb hd
  · rw [step_of_event s .engine rest hin]
    exact engineTurn_of_decode { s with inbox := rest } i hb hd

/-! ### Placing and accepting a command byte -/

theorem decode_of_decodeTableWord (nbits w : Nat) (i : Instr) (h : decodeTableWord nbits w = some i) :
    decode (tableByte nbits w) = .ok i := by
  cases hd : decode (tableByte nbits w) with
  | ok j => simpa [decodeTableWord, decodeBytes, hd] using h
  | error e => simp [decodeTableWord, decodeBytes, hd] at h

/-- Settles O5: the placed state has the engine's turn first in its inbox, and is the accepted state without it. -/
theorem placedWordRunsNext : Obligations.PlacedWordRunsNext := by
  intro s nbits w i h
  rw [step_of_event (s.withFetchWord nbits w) .engine s.inbox rfl]
  exact engineTurn_of_decode (accept (tableByte nbits w) s) i rfl (decode_of_decodeTableWord nbits w i h)

/-- Settles O6: address 0000 is CMD, and a write to CMD is acceptance. -/
theorem acceptanceOfCommand : Obligations.AcceptanceOfCommand := by
  intro s d rest hb h
  exact step_of_idle_write s 0x0000 d rest .cmd hb h (regionOf_register _ _ 0 (by omega) rfl)

end Sys2Proof.Machine
end

section
/-! PROOFS. The GF(2^8) multiplier and GFMUL (`40_galois_field.md` R120 to R123). The laws of R121 come from one fact:
a map that keeps sums and doublings runs through the loop of R120. -/

namespace Sys2Proof.Machine

open Sys2Proof

/-! ### Doubling -/

/-- What the doubling of a byte with this top bit adds (R120). -/
def reduction (top : Bool) : Byte := if top then 0x1B else 0x00

theorem reduction_xor (x y : Bool) : reduction (x ^^ y) = reduction x ^^^ reduction y := by revert x y; decide

theorem xt_eq (a : Byte) : xt a = (a <<< 1) ^^^ reduction a.msb := by
  have htop : (a &&& 0x80 = 0x00) = (a.msb = false) := by revert a; decide
  simp only [xt, reduction, htop]
  cases a.msb <;> rfl

theorem xt_xor (a b : Byte) : xt (a ^^^ b) = xt a ^^^ xt b := by
  rw [xt_eq, xt_eq a, xt_eq b, BitVec.msb_xor, reduction_xor, BitVec.shiftLeft_xor_distrib]
  ac_rfl

/-- The loop body of R120 with its doubling named: `xt` of R122. -/
theorem multiplyLoop_succ (n : Nat) (p a b : Byte) :
    multiplyLoop (n + 1) p a b = multiplyLoop n (if b &&& 0x01 = 0x01 then p ^^^ a else p) (xt a) (b >>> 1) := by
  have hdouble : (if a &&& 0x80 = 0x00 then a <<< 1 else (a <<< 1) ^^^ 0x1B) = xt a := by
    split
    · next h => rw [xt, if_pos h]; exact BitVec.xor_zero.symm
    · next h => rw [xt, if_neg h]
  rw [multiplyLoop, hdouble]

/-! ### The multiplier is linear -/

/-- A map that keeps sums and doublings runs through the loop, which does nothing else with `p` and `a`. -/
theorem map_multiplyLoop (f : Byte → Byte) (hxor : ∀ x y, f (x ^^^ y) = f x ^^^ f y) (hxt : ∀ x, f (xt x) = xt (f x))
    (n : Nat) (p a b : Byte) : f (multiplyLoop n p a b) = multiplyLoop n (f p) (f a) b := by
  induction n generalizing p a b with
  | zero => rfl
  | succ n ih => rw [multiplyLoop_succ, multiplyLoop_succ, ih, hxt, apply_ite f, hxor]

theorem map_multiply (f : Byte → Byte) (hxor : ∀ x y, f (x ^^^ y) = f x ^^^ f y) (hxt : ∀ x, f (xt x) = xt (f x))
    (a b : Byte) : f (multiply a b) = multiply (f a) b := by
  have hzero : f 0x00 = 0x00 := by simpa using hxor 0x00 0x00
  rw [multiply, map_multiplyLoop f hxor hxt, hzero, multiply]

theorem multiplyLoop_xor (n : Nat) (p q a c b : Byte) :
    multiplyLoop n (p ^^^ q) (a ^^^ c) b = multiplyLoop n p a b ^^^ multiplyLoop n q c b := by
  induction n generalizing p q a c b with
  | zero => rfl
  | succ n ih =>
    rw [multiplyLoop_succ, multiplyLoop_succ, multiplyLoop_succ, xt_xor, ← ih]
    congr 1
    split
    · ac_rfl
    · rfl

theorem xor_multiply (a b c : Byte) : multiply (a ^^^ b) c = multiply a c ^^^ multiply b c :=
  multiplyLoop_xor 8 0x00 0x00 a b c

theorem xt_multiply (a b : Byte) : multiply (xt a) b = xt (multiply a b) :=
  (map_multiply xt xt_xor (fun _ => rfl) a b).symm

/-- The first eight doublings of 01 are the eight bits of a byte. -/
theorem one_multiply (b : Byte) : multiply 0x01 b = b := by revert b; decide

theorem two_multiply (a : Byte) : multiply 0x02 a = xt a := (xt_multiply 0x01 a).trans (congrArg xt (one_multiply a))

/-! ### The ring laws -/

/-- Multiplying by `c` keeps sums and doublings, so it runs through the multiplier. -/
theorem multiply_right_comm (a b c : Byte) : multiply (multiply a b) c = multiply (multiply a c) b :=
  map_multiply (multiply · c) (xor_multiply · · c) (xt_multiply · c) a b

theorem multiply_comm (a b : Byte) : multiply a b = multiply b a := by
  simpa only [one_multiply] using multiply_right_comm 0x01 a b

theorem multiply_assoc (a b c : Byte) : multiply (multiply a b) c = multiply a (multiply b c) := by
  rw [multiply_comm a b, multiply_right_comm, multiply_comm]

theorem multiply_xor (a b c : Byte) : multiply a (b ^^^ c) = multiply a b ^^^ multiply a c := by
  rw [multiply_comm, xor_multiply, multiply_comm b, multiply_comm c]

theorem multiply_one (a : Byte) : multiply a 0x01 = a := by rw [multiply_comm, one_multiply]

theorem multiply_zero (a : Byte) : multiply a 0x00 = 0x00 := by simpa using multiply_xor a 0x00 0x00

/-! ### The inverse -/

/-- `a^2`. -/
def square (a : Byte) : Byte := multiply a a

theorem square_xor (a b : Byte) : square (a ^^^ b) = square a ^^^ square b := by
  have hcancel : multiply a b ^^^ multiply b a = 0x00 := by rw [multiply_comm]; exact BitVec.xor_self
  calc square (a ^^^ b)
      = multiply a a ^^^ multiply b b ^^^ (multiply a b ^^^ multiply b a) := by
        rw [square, xor_multiply, multiply_xor, multiply_xor]; ac_rfl
    _ = square a ^^^ square b := by rw [hcancel]; exact BitVec.xor_zero

theorem square_multiply (a b : Byte) : square (multiply a b) = multiply (square a) (square b) := by
  rw [square, ← multiply_assoc, multiply_right_comm a b a, multiply_assoc, square, square]

/-- `a^256 = a`: eight squarings keep sums, products, 01 and 02. -/
theorem square_iterate_eight (a : Byte) : square^[8] a = a := by
  have hxor : ∀ x y, square^[8] (x ^^^ y) = square^[8] x ^^^ square^[8] y := Function.Semiconj₂.iterate square_xor 8
  have hmul : ∀ x y, square^[8] (multiply x y) = multiply (square^[8] x) (square^[8] y) :=
    Function.Semiconj₂.iterate square_multiply 8
  have hone : square^[8] 0x01 = 0x01 := Function.iterate_fixed rfl 8
  have hhalf : square^[4] 0x02 = 0x5E := by decide
  have htwo : square^[8] 0x02 = 0x02 := by
    rw [Function.iterate_add_apply square 4 4, hhalf]
    decide
  have hxt : ∀ x, square^[8] (xt x) = xt (square^[8] x) := fun x => by rw [← two_multiply, hmul, htwo, two_multiply]
  have hmap := map_multiply (square^[8]) hxor hxt 0x01 a
  rwa [hone, one_multiply] at hmap

/-- `a^2 • a^4 • …`, with `n` factors. -/
def squaresProduct : Nat → Byte → Byte
  | 0, _ => 0x01
  | n + 1, a => multiply (square a) (squaresProduct n (square a))

theorem square_multiply_squaresProduct (n : Nat) (a : Byte) :
    multiply (square a) (squaresProduct n a) = square^[n + 1] a := by
  induction n generalizing a with
  | zero => exact multiply_one _
  | succ n ih =>
    rw [squaresProduct, ← multiply_assoc]
    exact ih (square a)

/-- `a^254`: the inverse of `a` for `a` other than 0. -/
def inverse (a : Byte) : Byte := squaresProduct 7 a

/-- That these are the only idempotents is what makes the ring a field: a product of fields has others. -/
theorem idempotent_cases (e : Byte) (h : multiply e e = e) : e = 0x00 ∨ e = 0x01 := by revert e; decide

/-- `a^255` is idempotent, since `a^256 = a`, and it is not 0. -/
theorem multiply_inverse (a : Byte) (ha : a ≠ 0) : multiply a (inverse a) = 0x01 := by
  have hunit : multiply a (multiply a (inverse a)) = a := by
    rw [← multiply_assoc]
    exact (square_multiply_squaresProduct 7 a).trans (square_iterate_eight a)
  have hidem : multiply (multiply a (inverse a)) (multiply a (inverse a)) = multiply a (inverse a) := by
    rw [multiply_right_comm, hunit]
  refine (idempotent_cases _ hidem).resolve_left fun hzero => ha ?_
  rw [← hunit, hzero, multiply_zero]

theorem multiply_eq_iff (a b c : Byte) (ha : a ≠ 0) : multiply a b = c ↔ b = multiply (inverse a) c := by
  constructor
  · rintro rfl
    rw [← multiply_assoc, multiply_comm (inverse a), multiply_inverse a ha, one_multiply]
  · rintro rfl
    rw [← multiply_assoc, multiply_inverse a ha, one_multiply]

/-! ### The obligations -/

/-- Settles O41: the multiplier is a commutative ring's, and its non-zero bytes have inverses. -/
theorem multiplyLaws : Obligations.MultiplyLaws :=
  ⟨multiply_comm, multiply_assoc, multiply_xor, fun a => ⟨multiply_one a, multiply_zero a⟩,
    fun a c ha => ⟨multiply (inverse a) c, (multiply_eq_iff a _ c ha).mpr rfl, fun _ => (multiply_eq_iff a _ c ha).mp⟩,
    by decide, by decide⟩

/-- Settles O24: GFMUL writes one byte of `S` and completes. -/
theorem gfmulCommand : Obligations.GfmulCommand := by
  refine ⟨rfl, fun s => ?_⟩
  obtain ⟨hsame, hother⟩ := Block.set_changes_only s.sreg 2 (multiply (s.sreg.get 0) (s.sreg.get 1)) (by omega)
  exact ⟨_, unitCommand_next gfmulBlock s, hsame, hother, onlyBlockRegister_complete s _⟩

/-- Settles O42: each constant is a sum of iterated doublings of 01. -/
theorem mixerMultiples : Obligations.MixerMultiples := by
  intro a
  have h03 : (0x03 : Byte) = xt 0x01 ^^^ 0x01 := by decide
  have h09 : (0x09 : Byte) = xt (xt (xt 0x01)) ^^^ 0x01 := by decide
  have h0B : (0x0B : Byte) = xt (xt (xt 0x01)) ^^^ xt 0x01 ^^^ 0x01 := by decide
  have h0D : (0x0D : Byte) = xt (xt (xt 0x01)) ^^^ xt (xt 0x01) ^^^ 0x01 := by decide
  have h0E : (0x0E : Byte) = xt (xt (xt 0x01)) ^^^ xt (xt 0x01) ^^^ xt 0x01 := by decide
  rw [h03, h09, h0B, h0D, h0E]
  simp only [two_multiply, xor_multiply, xt_multiply, one_multiply, and_self]

end Sys2Proof.Machine
end

section
/-! PROOFS. The column mixer (`41_column_mixer.md` R130 to R134). The laws of R132 come from one fact: a map of columns
that keeps sums and multiples is fixed by what it does to the four unit columns. -/

namespace Sys2Proof.Machine

open Sys2Proof

/-! ### Columns and the maps that keep sums and multiples -/

/-- The multiple `k • c` of a column, byte by byte. -/
def scaleColumn (k : Byte) (c : Word) : Word := ⟨multiply k c.b0, multiply k c.b1, multiply k c.b2, multiply k c.b3⟩

/-- The columns of the identity matrix. -/
def unitColumns : List Word := [⟨1, 0, 0, 0⟩, ⟨0, 1, 0, 0⟩, ⟨0, 0, 1, 0⟩, ⟨0, 0, 0, 1⟩]

/-- Every column is a sum of multiples of the unit columns. -/
theorem column_eq_sum (c : Word) :
    (((scaleColumn c.b0 ⟨1, 0, 0, 0⟩).xor (scaleColumn c.b1 ⟨0, 1, 0, 0⟩)).xor (scaleColumn c.b2 ⟨0, 0, 1, 0⟩)).xor
      (scaleColumn c.b3 ⟨0, 0, 0, 1⟩) = c := by
  simp only [scaleColumn, multiply_one, multiply_zero]
  simp [Word.xor]

/-- A map of columns that keeps sums and multiples. -/
structure ColumnLinear (f : Word → Word) : Prop where
  xor : ∀ a b, f (a.xor b) = (f a).xor (f b)
  scale : ∀ k c, f (scaleColumn k c) = scaleColumn k (f c)

theorem ColumnLinear.id : ColumnLinear id := ⟨fun _ _ => rfl, fun _ _ => rfl⟩

theorem ColumnLinear.comp {f g : Word → Word} (hf : ColumnLinear f) (hg : ColumnLinear g) : ColumnLinear (f ∘ g) where
  xor a b := (congrArg f (hg.xor a b)).trans (hf.xor _ _)
  scale k c := (congrArg f (hg.scale k c)).trans (hf.scale k _)

/-- Such a map is fixed by the unit columns' images, the columns of its matrix. -/
theorem ColumnLinear.eq_of_unitColumns {f g : Word → Word} (hf : ColumnLinear f) (hg : ColumnLinear g)
    (h : ∀ u ∈ unitColumns, f u = g u) (c : Word) : f c = g c := by
  obtain ⟨h0, h1, h2, h3⟩ : f ⟨1, 0, 0, 0⟩ = g ⟨1, 0, 0, 0⟩ ∧ f ⟨0, 1, 0, 0⟩ = g ⟨0, 1, 0, 0⟩ ∧
      f ⟨0, 0, 1, 0⟩ = g ⟨0, 0, 1, 0⟩ ∧ f ⟨0, 0, 0, 1⟩ = g ⟨0, 0, 0, 1⟩ := by simpa [unitColumns] using h
  rw [← column_eq_sum c]
  simp only [hf.xor, hg.xor, hf.scale, hg.scale, h0, h1, h2, h3]

/-- A column of four equal bytes is a multiple of the column of ones. -/
theorem ColumnLinear.equalBytes {f : Word → Word} (hf : ColumnLinear f) (hones : f ⟨1, 1, 1, 1⟩ = ⟨1, 1, 1, 1⟩)
    (x : Byte) : f ⟨x, x, x, x⟩ = ⟨x, x, x, x⟩ := by
  have hx : scaleColumn x ⟨1, 1, 1, 1⟩ = ⟨x, x, x, x⟩ := by simp only [scaleColumn, multiply_one]
  rw [← hx, hf.scale, hones]

/-! ### The two mixers keep sums and multiples -/

theorem rowProduct_xor (m a b : Word) : rowProduct m (a.xor b) = rowProduct m a ^^^ rowProduct m b := by
  simp only [rowProduct, Word.xor, multiply_xor]
  ac_rfl

theorem multiply_left_comm (a b c : Byte) : multiply a (multiply b c) = multiply b (multiply a c) := by
  rw [← multiply_assoc, multiply_comm a b, multiply_assoc]

theorem rowProduct_scaleColumn (m : Word) (k : Byte) (c : Word) :
    rowProduct m (scaleColumn k c) = multiply k (rowProduct m c) := by
  simp only [rowProduct, scaleColumn, multiply_xor, multiply_left_comm _ k]

theorem columnLinear_mixColumn : ColumnLinear mixColumn where
  xor a b := by simp only [mixColumn, rowProduct_xor]; rfl
  scale k c := by simp only [mixColumn, rowProduct_scaleColumn]; rfl

theorem columnLinear_invMixColumn : ColumnLinear invMixColumn where
  xor a b := by simp only [invMixColumn, rowProduct_xor]; rfl
  scale k c := by simp only [invMixColumn, rowProduct_scaleColumn]; rfl

/-! ### Their products, entry by entry -/

theorem invMixColumn_mixColumn (c : Word) : invMixColumn (mixColumn c) = c :=
  (columnLinear_invMixColumn.comp columnLinear_mixColumn).eq_of_unitColumns .id (by decide) c

theorem mixColumn_invMixColumn (c : Word) : mixColumn (invMixColumn c) = c :=
  (columnLinear_mixColumn.comp columnLinear_invMixColumn).eq_of_unitColumns .id (by decide) c

theorem mixColumn_iterate_four (c : Word) : mixColumn (mixColumn (mixColumn (mixColumn c))) = c :=
  have htwice : ColumnLinear (mixColumn ∘ mixColumn) := columnLinear_mixColumn.comp columnLinear_mixColumn
  (htwice.comp htwice).eq_of_unitColumns .id (by decide) c

/-! ### A command on column 0 of `S` -/

theorem onFirstColumn_get_of_lt (f : Word → Word) (b : Block) (i : Nat) (hi : i < 4) :
    (onFirstColumn f b).get i = (f (b.col 0)).get i := by
  simp [Block.get, onFirstColumn, Nat.div_eq_of_lt hi, Nat.mod_eq_of_lt hi, Block.col_setCol]

theorem onFirstColumn_get_of_ge (f : Word → Word) (b : Block) (i : Nat) (hlo : 4 ≤ i) (hhi : i < 16) :
    (onFirstColumn f b).get i = b.get i := by
  rw [Block.get, onFirstColumn, Block.col_setCol _ _ _ _ (by omega) (by omega), if_neg (by omega), Block.get]

/-- What MIXCOL, INVMIXCOL, ROTWORD and SUBWORD have in common: `S[0..3] <- f(S[0..3])` and nothing else. -/
theorem firstColumnCommand_next (f : Word → Word) (s : State) :
    ∃ t, unitCommand (onFirstColumn f) s = .next t ∧ (∀ i, i < 4 → t.sreg.get i = (f (s.sreg.col 0)).get i) ∧
      (∀ i, 4 ≤ i → i < 16 → t.sreg.get i = s.sreg.get i) ∧ OnlyBlockRegister s t :=
  ⟨_, unitCommand_next _ s, onFirstColumn_get_of_lt f s.sreg, onFirstColumn_get_of_ge f s.sreg,
    onlyBlockRegister_complete s _⟩

/-! ### The obligations -/

/-- Settles O43: each law is one of maps that keep sums and multiples, so the unit columns, or the column of ones,
decide it. -/
theorem columnMixerRoundTrip : Obligations.ColumnMixerRoundTrip :=
  ⟨fun c => ⟨invMixColumn_mixColumn c, mixColumn_invMixColumn c⟩, columnLinear_mixColumn.xor,
    fun x => ⟨columnLinear_mixColumn.equalBytes (by decide) x, columnLinear_invMixColumn.equalBytes (by decide) x⟩,
    mixColumn_iterate_four⟩

/-- Settles O23: both are commands on column 0, and its bytes are the row products of R130 and R131. -/
theorem columnMixerCommands : Obligations.ColumnMixerCommands := by
  refine ⟨rfl, rfl, fun s => ⟨?mixcol, ?invmixcol⟩⟩
  case mixcol =>
    obtain ⟨t, hnext, hcolumn, hrest⟩ := firstColumnCommand_next mixColumn s
    exact ⟨t, hnext, hcolumn 0 (by omega), hcolumn 1 (by omega), hcolumn 2 (by omega), hcolumn 3 (by omega), hrest⟩
  case invmixcol =>
    obtain ⟨t, hnext, hcolumn, hrest⟩ := firstColumnCommand_next invMixColumn s
    exact ⟨t, hnext, hcolumn 0 (by omega), hcolumn 1 (by omega), hcolumn 2 (by omega), hcolumn 3 (by omega), hrest⟩

end Sys2Proof.Machine
end

section
/-! PROOFS. The two tables (`42_sbox_rcon.md` R140 to R143): SBOX against its generating formula, INV_SBOX against SBOX.
Inverses are unique, so it is enough that undoing the affine map on `SBOX[a]` gives an inverse of `a`. -/

namespace Sys2Proof.Machine

open Sys2Proof

/-! ### The generating formula -/

/-- The affine map of R143. -/
def affineImage (v : Byte) : Byte :=
  v ^^^ v.rotateLeft 1 ^^^ v.rotateLeft 2 ^^^ v.rotateLeft 3 ^^^ v.rotateLeft 4 ^^^ 0x63

/-- The affine map of R143 undone. -/
def affinePreimage (b : Byte) : Byte := b.rotateLeft 1 ^^^ b.rotateLeft 3 ^^^ b.rotateLeft 6 ^^^ 0x05

theorem affineImage_affinePreimage (b : Byte) : affineImage (affinePreimage b) = b := by revert b; decide

/-- `v` is the multiplicative inverse of `a`, or both are 0 (R143). -/
def InverseOf (a v : Byte) : Prop := multiply a v = 1 ∨ (a = 0 ∧ v = 0)

theorem InverseOf.unique {a v w : Byte} (hv : InverseOf a v) (hw : InverseOf a w) : v = w := by
  by_cases ha : a = 0
  · have hzero {b : Byte} (h : InverseOf a b) : b = 0 := by
      rcases h with hb | hb
      · rw [ha, multiply_comm, multiply_zero] at hb
        exact absurd hb (by decide)
      · exact hb.2
    rw [hzero hv, hzero hw]
  · have hinverse {b : Byte} (h : InverseOf a b) : b = multiply (inverse a) 1 :=
      (multiply_eq_iff a b 1 ha).mp (h.resolve_right fun hb => ha hb.1)
    rw [hinverse hv, hinverse hw]

/-- The check of SBOX entry by entry: one product for each. -/
theorem inverseOf_affinePreimage_sbox (a : Byte) : InverseOf a (affinePreimage (sbox a)) := by
  unfold InverseOf
  revert a
  decide

theorem sbox_eq_affineImage {a v : Byte} (h : InverseOf a v) : sbox a = affineImage v := by
  rw [h.unique (inverseOf_affinePreimage_sbox a), affineImage_affinePreimage]

/-! ### The two tables undo each other -/

@[simp] theorem invSbox_sbox (b : Byte) : invSbox (sbox b) = b := by revert b; decide

/-- A table that undoes SBOX on one side does so on the other, since bytes are finitely many. -/
@[simp] theorem sbox_invSbox (b : Byte) : sbox (invSbox b) = b :=
  Function.LeftInverse.rightInverse_of_card_le (f := invSbox) (g := sbox) invSbox_sbox le_rfl b

theorem sbox_moves_every_byte (b : Byte) : sbox b ≠ b ∧ sbox b ≠ b ^^^ 0xFF := by revert b; decide

/-! ### The obligation -/

/-- Settles O44: the formula by the uniqueness of inverses, the source's vector (R143 (d)) by evaluation of the model. -/
theorem sboxIsAffineInverse : Obligations.SboxIsAffineInverse := by
  refine ⟨fun a v h => sbox_eq_affineImage h,
    fun b => ⟨invSbox_sbox b, sbox_invSbox b, sbox_moves_every_byte b⟩, ?sourceVector⟩
  case sourceVector => decide +kernel

end Sys2Proof.Machine
end

section
/-! PROOFS. The key schedule as it stands in RK (`43_key_schedule.md` R150 to R155), and the commands KEYLOAD, ROTWORD
and SUBWORD. One recurrence carries both statements about the schedule: read forwards it gives each word from earlier
ones, and since it XORs the word four places back, read backwards it gives that word from later ones. -/

namespace Sys2Proof.Machine

open Sys2Proof

/-! ### The words of RK are the words of the expansion -/

theorem roundKey_scheduleOf (w : List Word) (k : Nat) (hk : k < 11) : roundKey (scheduleOf w) k = roundKeyOf w k := by
  interval_cases k <;> rfl

theorem roundKeyOf_col (w : List Word) (k c : Nat) (hc : c < 4) :
    (roundKeyOf w k).col c = w.getD (4 * k + c) Word.zero := by
  interval_cases c <;> rfl

theorem scheduleWord_expand (key : Block) (i : Nat) (hi : i < 44) :
    scheduleWord (expand key) i = (expandWords key).getD i Word.zero := by
  rw [scheduleWord, expand, roundKey_scheduleOf _ _ (by omega), roundKeyOf_col _ _ _ (by omega), Nat.div_add_mod]

/-- Word `4k + c` is column `c` of round key `k` (R66). -/
theorem scheduleWord_four_mul_add (rk : Vector Block 11) (k c : Nat) (hc : c < 4) :
    scheduleWord rk (4 * k + c) = (roundKey rk k).col c := by
  rw [scheduleWord, Nat.mul_add_div (by omega), Nat.div_eq_of_lt hc, Nat.mul_add_mod, Nat.mod_eq_of_lt hc, Nat.add_zero]

/-- The first four words are the key. -/
theorem scheduleWord_expand_of_lt (key : Block) (c : Nat) (hc : c < 4) :
    scheduleWord (expand key) c = key.col c := by
  simpa [roundKey_expand_zero] using scheduleWord_four_mul_add (expand key) 0 c hc

/-! ### The recurrence of R153 -/

/-- The words a loop of R153 has appended obey its body: no later pass changes a word or those it was made from. -/
theorem expandLoop_getD_recurrence (n i : Nat) (w : List Word) (hw : 0 < w.length) (hlo : w.length ≤ i)
    (hhi : i < w.length + n) :
    (expandLoop n w).getD i Word.zero =
      nextWord i ((expandLoop n w).getD (i - 1) Word.zero) ((expandLoop n w).getD (i - 4) Word.zero) := by
  induction n with
  | zero => omega
  | succ n ih =>
    have hlen : (expandLoop n w).length = w.length + n := expandLoop_length n w
    rw [expandLoop_succ, expandStep, List.getD_append _ _ _ (i - 1) (by omega),
      List.getD_append _ _ _ (i - 4) (by omega)]
    by_cases hold : i < w.length + n
    · rw [List.getD_append _ _ _ _ (by omega), ih hold]
    · obtain rfl : i = (expandLoop n w).length := by omega
      rw [List.getD_append_right _ _ _ _ le_rfl, Nat.sub_self]
      rfl

theorem scheduleWord_expand_recurrence (key : Block) (i : Nat) (hlo : 4 ≤ i) (hhi : i < 44) :
    scheduleWord (expand key) i =
      nextWord i (scheduleWord (expand key) (i - 1)) (scheduleWord (expand key) (i - 4)) := by
  rw [scheduleWord_expand _ _ hhi, scheduleWord_expand _ _ (by omega), scheduleWord_expand _ _ (by omega)]
  exact expandLoop_getD_recurrence 40 i _ (Nat.succ_pos _) hlo hhi

/-- The same recurrence from the word four places back. -/
theorem scheduleWord_expand_add_four (key : Block) (n : Nat) (hn : n < 40) :
    scheduleWord (expand key) (n + 4) =
      nextWord (n + 4) (scheduleWord (expand key) (n + 3)) (scheduleWord (expand key) n) :=
  scheduleWord_expand_recurrence key (n + 4) (by omega) (by omega)

/-! ### The recurrence backwards (R154) -/

theorem Word.xor_right_injective (b : Word) : Function.Injective fun a : Word => a.xor b :=
  Function.LeftInverse.injective (g := fun a => a.xor b) fun a => Word.xor_self_right a b

/-- A word and the word before it determine the word four places back. -/
theorem nextWord_injective (i : Nat) (prev : Word) : Function.Injective (nextWord i prev) :=
  Word.xor_right_injective _

/-- Two schedules agree in the four words from word `n` on. -/
def AgreeFrom (rk rk' : Vector Block 11) (n : Nat) : Prop :=
  ∀ c, c < 4 → scheduleWord rk (n + c) = scheduleWord rk' (n + c)

theorem agreeFrom_of_roundKey_eq {rk rk' : Vector Block 11} {r : Nat} (h : roundKey rk r = roundKey rk' r) :
    AgreeFrom rk rk' (4 * r) := fun c hc => by
  rw [scheduleWord_four_mul_add _ _ _ hc, scheduleWord_four_mul_add _ _ _ hc, h]

/-- The window of agreement moves one word back. -/
theorem AgreeFrom.pred {key key' : Block} {n : Nat} (h : AgreeFrom (expand key) (expand key') (n + 1)) (hn : n < 40) :
    AgreeFrom (expand key) (expand key') n := by
  intro c hc
  cases c with
  | zero =>
    have hprev : scheduleWord (expand key) (n + 3) = scheduleWord (expand key') (n + 3) := h 2 (by omega)
    have hlast : scheduleWord (expand key) (n + 4) = scheduleWord (expand key') (n + 4) := h 3 (by omega)
    rw [scheduleWord_expand_add_four key n hn, scheduleWord_expand_add_four key' n hn, hprev] at hlast
    exact nextWord_injective _ _ hlast
  | succ c =>
    rw [Nat.add_comm c 1, ← Nat.add_assoc]
    exact h c (by omega)

theorem AgreeFrom.zero {key key' : Block} {n : Nat} (h : AgreeFrom (expand key) (expand key') n) (hn : n ≤ 40) :
    AgreeFrom (expand key) (expand key') 0 := by
  induction n with
  | zero => exact h
  | succ n ih => exact ih (h.pred (by omega)) (by omega)

theorem eq_of_agreeFrom_zero {key key' : Block} (h : AgreeFrom (expand key) (expand key') 0) : key = key' := by
  have hcol (c : Nat) (hc : c < 4) : key.col c = key'.col c := by
    have hword := h c hc
    rwa [Nat.zero_add, scheduleWord_expand_of_lt _ _ hc, scheduleWord_expand_of_lt _ _ hc] at hword
  refine Block.ext_get _ _ fun i hi => ?_
  rw [Block.get, Block.get, hcol _ (by omega)]

/-! ### The commands -/

theorem exec_keyload_of_klen_eq (s : State) (h : s.klen = 16) :
    exec .keyload s = .next (complete { s with rk := expand s.key, kvalid := true }) := by
  simp only [exec, execKeyload, if_pos h]

theorem exec_keyload_of_klen_ne (s : State) (h : s.klen ≠ 16) :
    exec .keyload s = .next (raise .invalidKeyLength (dropSchedule s)) := by
  simp only [exec, execKeyload, if_neg h]

theorem roundKey_zeroSchedule (k : Nat) : roundKey zeroSchedule k = Block.zero := by
  rw [roundKey_eq_getElem?, zeroSchedule, Vector.getElem?_replicate]
  split <;> rfl

theorem subWord_get (w : Word) (t : Nat) (ht : t < 4) : (subWord w).get t = sbox (w.get t) := by
  interval_cases t <;> rfl

theorem Block.get_of_lt_four (b : Block) (i : Nat) (hi : i < 4) : b.get i = (b.col 0).get i := by
  rw [Block.get, Nat.div_eq_of_lt hi, Nat.mod_eq_of_lt hi]

/-! ### The obligations -/

/-- Settles O47: agreement in one round key is agreement in four words in a row, which moves back word by word to the
key. -/
theorem scheduleDeterminedByOneRoundKey : Obligations.ScheduleDeterminedByOneRoundKey :=
  ⟨roundKey_expand_zero, fun _ _ _ hr h => eq_of_agreeFrom_zero ((agreeFrom_of_roundKey_eq h).zero (by omega))⟩

/-- Settles O18: the schedule by its recurrence, the wrong key length by error entry after RK and KVALID are cleared. -/
theorem keyloadCommand : Obligations.KeyloadCommand := by
  refine ⟨rfl, fun s => ⟨fun hlen => ?success, fun hlen => ?wrongLength⟩⟩
  case success =>
    exact ⟨_, exec_keyload_of_klen_eq s hlen, rfl, scheduleWord_expand_of_lt s.key,
      scheduleWord_expand_recurrence s.key, ⟨rfl, rfl, rfl, rfl, rfl⟩, KeepsInputs.refl s, ⟨rfl, fun _ => rfl⟩,
      KeepsPorts.refl s, rfl, rfl, rfl⟩
  case wrongLength =>
    exact ⟨_, exec_keyload_of_klen_ne s hlen, raise_endedInError _ (dropSchedule s), rfl,
      fun k _ => roundKey_zeroSchedule k⟩

/-- Settles O25: both are commands on column 0, whose bytes `RotWord` moves and `SubWord` looks up in SBOX. -/
theorem wordCommands : Obligations.WordCommands := by
  refine ⟨rfl, rfl, fun s => ⟨?rotword, ?subword⟩⟩
  case rotword =>
    obtain ⟨t, hnext, hcolumn, hrest⟩ := firstColumnCommand_next rotWord s
    exact ⟨t, hnext, hcolumn 0 (by omega), hcolumn 1 (by omega), hcolumn 2 (by omega), hcolumn 3 (by omega), hrest⟩
  case subword =>
    obtain ⟨t, hnext, hcolumn, hrest⟩ := firstColumnCommand_next subWord s
    refine ⟨t, hnext, fun i hi => ?_, hrest⟩
    rw [hcolumn i hi, subWord_get _ _ hi, Block.get_of_lt_four _ _ hi]

end Sys2Proof.Machine
end

section
/-! PROOFS. The round steps (`44_round_steps.md` R170 to R176, R184) and the seven commands that apply them (R177 to
R183). The byte substitutions act on byte values alone and the row shifts on byte positions alone: each is an instance of
one of two maps of blocks, and the laws of R184 are laws of these maps. -/

namespace Sys2Proof.Machine

open Sys2Proof

/-! ### The matrix view (R11) -/

theorem Block.at_ofFn (f : Nat → Byte) (r c : Nat) (hr : r < 4) (hc : c < 4) :
    (Block.ofFn f).at r c = f (r + 4 * c) :=
  Block.get_ofFn f _ (by omega)

theorem Block.at_row_col (b : Block) (i : Nat) : b.at (i % 4) (i / 4) = b.get i := by rw [Block.at, Nat.mod_add_div]

theorem Block.ext_at (a b : Block) (h : ∀ r c, r < 4 → c < 4 → a.at r c = b.at r c) : a = b := by
  refine Block.ext_get a b fun i hi => ?_
  rw [← Block.at_row_col a, ← Block.at_row_col b, h _ _ (by omega) (by omega)]

/-! ### Steps on byte values -/

/-- The block with `g` applied to each of its bytes. -/
def mapBytes (g : Byte → Byte) (b : Block) : Block := Block.ofFn fun i => g (b.get i)

theorem subBytes_eq (b : Block) : subBytes b = mapBytes sbox b := rfl

theorem invSubBytes_eq (b : Block) : invSubBytes b = mapBytes invSbox b := rfl

theorem mapBytes_get (g : Byte → Byte) (b : Block) (i : Nat) (hi : i < 16) : (mapBytes g b).get i = g (b.get i) :=
  Block.get_ofFn _ i hi

theorem mapBytes_at (g : Byte → Byte) (b : Block) (r c : Nat) (hr : r < 4) (hc : c < 4) :
    (mapBytes g b).at r c = g (b.at r c) :=
  mapBytes_get g b _ (by omega)

theorem mapBytes_leftInverse {g f : Byte → Byte} (h : Function.LeftInverse g f) (b : Block) :
    mapBytes g (mapBytes f b) = b := by
  refine Block.ext_get _ _ fun i hi => ?_
  rw [mapBytes_get _ _ _ hi, mapBytes_get _ _ _ hi, h]

/-! ### Steps on byte positions -/

/-- The block whose row `r` holds in column `c` what `b` holds there in column `source r c`. -/
def moveInRows (source : Nat → Nat → Nat) (b : Block) : Block :=
  Block.ofFn fun i => b.at (i % 4) (source (i % 4) (i / 4))

/-- The column that a rotation of row `r` left by `r` positions brings to column `c` (R172). -/
def leftSource (r c : Nat) : Nat := (c + r) % 4

/-- The column that a rotation of row `r` right by `r` positions brings to column `c` (R173). -/
def rightSource (r c : Nat) : Nat := (c + 4 - r) % 4

theorem shiftRows_eq (b : Block) : shiftRows b = moveInRows leftSource b := rfl

theorem invShiftRows_eq (b : Block) : invShiftRows b = moveInRows rightSource b := rfl

theorem leftSource_lt (r c : Nat) : leftSource r c < 4 := Nat.mod_lt _ (by omega)

theorem rightSource_lt (r c : Nat) : rightSource r c < 4 := Nat.mod_lt _ (by omega)

theorem leftSource_rightSource (r c : Nat) (hr : r < 4) (hc : c < 4) : leftSource r (rightSource r c) = c := by
  unfold leftSource rightSource
  omega

theorem rightSource_leftSource (r c : Nat) (hr : r < 4) (hc : c < 4) : rightSource r (leftSource r c) = c := by
  unfold leftSource rightSource
  omega

theorem moveInRows_at (source : Nat → Nat → Nat) (b : Block) (r c : Nat) (hr : r < 4) (hc : c < 4) :
    (moveInRows source b).at r c = b.at r (source r c) := by
  rw [moveInRows, Block.at_ofFn _ _ _ hr hc, Nat.add_mul_mod_self_left, Nat.mod_eq_of_lt hr,
    Nat.add_mul_div_left _ _ (by omega), Nat.div_eq_of_lt hr, Nat.zero_add]

theorem moveInRows_leftInverse {back source : Nat → Nat → Nat} (hlt : ∀ r c, back r c < 4)
    (h : ∀ r c, r < 4 → c < 4 → source r (back r c) = c) (b : Block) : moveInRows back (moveInRows source b) = b := by
  refine Block.ext_at _ _ fun r c hr hc => ?_
  rw [moveInRows_at _ _ _ _ hr hc, moveInRows_at _ _ _ _ hr (hlt r c), h r c hr hc]

/-- A step on byte values commutes with a step on byte positions. -/
theorem mapBytes_moveInRows (g : Byte → Byte) {source : Nat → Nat → Nat} (hlt : ∀ r c, source r c < 4) (b : Block) :
    mapBytes g (moveInRows source b) = moveInRows source (mapBytes g b) := by
  refine Block.ext_at _ _ fun r c hr hc => ?_
  rw [mapBytes_at _ _ _ _ hr hc, moveInRows_at _ _ _ _ hr hc, moveInRows_at _ _ _ _ hr hc,
    mapBytes_at _ _ _ _ hr (hlt r c)]

/-! ### Steps on columns -/

theorem Block.mapCols_col (f : Word → Word) (b : Block) (c : Nat) (hc : c < 4) :
    (b.mapCols f).col c = f (b.col c) := by
  interval_cases c <;> rfl

theorem Block.mapCols_leftInverse {g f : Word → Word} (h : Function.LeftInverse g f) (b : Block) :
    (b.mapCols f).mapCols g = b := by
  simp only [Block.mapCols, h _]

/-! ### The steps and their inverses -/

theorem invSubBytes_subBytes (b : Block) : invSubBytes (subBytes b) = b := by
  rw [subBytes_eq, invSubBytes_eq, mapBytes_leftInverse invSbox_sbox]

theorem subBytes_invSubBytes (b : Block) : subBytes (invSubBytes b) = b := by
  rw [subBytes_eq, invSubBytes_eq, mapBytes_leftInverse sbox_invSbox]

theorem invShiftRows_shiftRows (b : Block) : invShiftRows (shiftRows b) = b := by
  rw [shiftRows_eq, invShiftRows_eq, moveInRows_leftInverse rightSource_lt leftSource_rightSource]

theorem shiftRows_invShiftRows (b : Block) : shiftRows (invShiftRows b) = b := by
  rw [shiftRows_eq, invShiftRows_eq, moveInRows_leftInverse leftSource_lt rightSource_leftSource]

theorem invMixColumns_mixColumns (b : Block) : invMixColumns (mixColumns b) = b :=
  Block.mapCols_leftInverse invMixColumn_mixColumn b

theorem mixColumns_invMixColumns (b : Block) : mixColumns (invMixColumns b) = b :=
  Block.mapCols_leftInverse mixColumn_invMixColumn b

theorem addRoundKey_self (b k : Block) : addRoundKey (addRoundKey b k) k = b := Block.xor_self_right b k

theorem subBytes_shiftRows (b : Block) : subBytes (shiftRows b) = shiftRows (subBytes b) := by
  rw [shiftRows_eq, shiftRows_eq, subBytes_eq, subBytes_eq, mapBytes_moveInRows sbox leftSource_lt]

theorem invSubBytes_invShiftRows (b : Block) : invSubBytes (invShiftRows b) = invShiftRows (invSubBytes b) := by
  rw [invShiftRows_eq, invShiftRows_eq, invSubBytes_eq, invSubBytes_eq, mapBytes_moveInRows invSbox rightSource_lt]

/-! ### ADDROUNDKEY -/

/-- The byte 0x60 + k is format K with the immediate `k` (R93). -/
theorem encode_addroundkey (k : BitVec 4) : encode (.addroundkey k) = BitVec.ofNat 8 (0x60 + k.toNat) := by
  refine BitVec.eq_of_toNat_eq ?_
  have hk := k.isLt
  rw [encode, commandByte_toNat, BitVec.toNat_ofNat, Nat.mod_eq_of_lt (by omega)]
  rfl

theorem exec_addroundkey_of_le (k : BitVec 4) (hk : k.toNat ≤ 10) (s : State) :
    exec (.addroundkey k) s = keyedCommand (fun b rk => addRoundKey b (roundKey rk k.toNat)) s :=
  if_pos (decide_eq_true hk)

/-! ### The obligations -/

/-- Settles O45: each law is one of byte values, of byte positions, of columns or of exclusive-or. -/
theorem roundStepInverses : Obligations.RoundStepInverses := fun b k =>
  ⟨invSubBytes_subBytes b, subBytes_invSubBytes b, invShiftRows_shiftRows b, shiftRows_invShiftRows b,
    invMixColumns_mixColumns b, mixColumns_invMixColumns b, addRoundKey_self b k, subBytes_shiftRows b,
    invSubBytes_invShiftRows b⟩

/-- Settles O22: the byte is the opcode of the command; a keyed command has one case for each value of KVALID. -/
theorem addRoundKeyCommand : Obligations.AddRoundKeyCommand := by
  intro k hk
  refine ⟨?decoding, fun s => ⟨fun hloaded => ?loaded, fun hnone => ?notLoaded⟩⟩
  case decoding =>
    rw [← encode_addroundkey]
    exact decode_encode _ (decide_eq_true hk)
  case loaded =>
    rw [exec_addroundkey_of_le k hk, keyedCommand_loaded _ s hloaded]
    exact ⟨_, rfl, Block.xor_get s.sreg (roundKey s.rk k.toNat), onlyBlockRegister_complete s _⟩
  case notLoaded =>
    rw [exec_addroundkey_of_le k hk, keyedCommand_notLoaded _ s hnone]
    exact ⟨_, rfl, raise_endedInError _ s, raise_keepsSchedule _ s⟩

/-- Settles O19: both are unit commands, whose step maps the bytes of `S` through a table. -/
theorem subBytesCommands : Obligations.SubBytesCommands := by
  refine ⟨rfl, rfl, fun s => ⟨?subbytes, ?invsubbytes⟩⟩
  case subbytes =>
    exact ⟨_, unitCommand_next subBytes s, mapBytes_get sbox s.sreg, onlyBlockRegister_complete s _⟩
  case invsubbytes =>
    exact ⟨_, unitCommand_next invSubBytes s, mapBytes_get invSbox s.sreg, onlyBlockRegister_complete s _⟩

/-- Settles O20: both are unit commands, whose step moves the bytes of `S` in their rows. -/
theorem shiftRowsCommands : Obligations.ShiftRowsCommands := by
  refine ⟨rfl, rfl, fun s => ⟨?shiftrows, ?invshiftrows⟩⟩
  case shiftrows =>
    exact ⟨_, unitCommand_next shiftRows s, moveInRows_at leftSource s.sreg, onlyBlockRegister_complete s _⟩
  case invshiftrows =>
    exact ⟨_, unitCommand_next invShiftRows s, moveInRows_at rightSource s.sreg, onlyBlockRegister_complete s _⟩

/-- Settles O21: both are unit commands, whose step maps the columns of `S`. -/
theorem mixColumnsCommands : Obligations.MixColumnsCommands := by
  refine ⟨rfl, rfl, fun s => ⟨?mixcolumns, ?invmixcolumns⟩⟩
  case mixcolumns =>
    exact ⟨_, unitCommand_next mixColumns s, Block.mapCols_col mixColumn s.sreg, onlyBlockRegister_complete s _⟩
  case invmixcolumns =>
    exact ⟨_, unitCommand_next invMixColumns s, Block.mapCols_col invMixColumn s.sreg, onlyBlockRegister_complete s _⟩

end Sys2Proof.Machine
end

section
/-! PROOFS. The block functions (`45_block_transform.md` R190 to R192) and the commands BLKENC (R194) and BLKDEC (R195).
R192 goes round by round: round `10 - r` of the inverse sequence reads the same round key as round `r` of the forward
sequence and undoes it, and the inverse sequence runs through the rounds in the opposite order. -/

namespace Sys2Proof.Machine

open Sys2Proof

/-! ### Rounds that undo each other -/

theorem inverseRound_forwardRound (rk : Vector Block 11) (t : Block) (r : Nat) (hr : r ≤ 10) :
    inverseRound rk (forwardRound rk t r) (10 - r) = t := by
  rw [inverseRound, forwardRound, Nat.sub_sub_self hr, addRoundKey_self, invMixColumns_mixColumns,
    invShiftRows_shiftRows, invSubBytes_subBytes]

theorem forwardRound_inverseRound (rk : Vector Block 11) (t : Block) (r : Nat) (hr : r ≤ 10) :
    forwardRound rk (inverseRound rk t (10 - r)) r = t := by
  rw [inverseRound, forwardRound, Nat.sub_sub_self hr, subBytes_invSubBytes, shiftRows_invShiftRows,
    mixColumns_invMixColumns, addRoundKey_self]

/-- Steps taken one after the other are undone by their inverses in the opposite order. -/
theorem foldl_reverse_foldl_of_cancel {α β : Type} {f g : β → α → β} (l : List α)
    (h : ∀ x ∈ l, ∀ b, g (f b x) x = b) (b : β) : l.reverse.foldl g (l.foldl f b) = b := by
  induction l generalizing b with
  | nil => rfl
  | cons x xs ih =>
    have hxs : xs.reverse.foldl g (xs.foldl f (f b x)) = f b x := ih (fun y hy => h y (List.mem_cons_of_mem x hy)) _
    rw [List.foldl_cons, List.reverse_cons, List.foldl_concat, hxs]
    exact h x List.mem_cons_self b

/-! ### The rounds 1..9 -/

/-- The rounds that have all four steps, in the order of the forward sequence (R190, R191). -/
def fullRounds : List Nat := [1, 2, 3, 4, 5, 6, 7, 8, 9]

theorem le_ten_of_mem_fullRounds : ∀ r ∈ fullRounds, r ≤ 10 := by decide

/-- The rounds 1..9 of `Cipher` (R190). -/
def forwardRounds (rk : Vector Block 11) (b : Block) : Block := fullRounds.foldl (forwardRound rk) b

/-- The rounds 1..9 of `InvCipher` (R191), numbered by the round key each reads: round `10 - r` for r = 9..1. -/
def inverseRounds (rk : Vector Block 11) (b : Block) : Block :=
  fullRounds.reverse.foldl (fun t r => inverseRound rk t (10 - r)) b

theorem fullRounds_eq_map_reverse : fullRounds = fullRounds.reverse.map (10 - ·) := rfl

theorem foldl_inverseRound (rk : Vector Block 11) (b : Block) :
    fullRounds.foldl (inverseRound rk) b = inverseRounds rk b :=
  calc fullRounds.foldl (inverseRound rk) b
      = (fullRounds.reverse.map (10 - ·)).foldl (inverseRound rk) b := by rw [← fullRounds_eq_map_reverse]
    _ = inverseRounds rk b := List.foldl_map

theorem cipher_eq (b : Block) (rk : Vector Block 11) :
    cipher b rk =
      addRoundKey (shiftRows (subBytes (forwardRounds rk (addRoundKey b (roundKey rk 0))))) (roundKey rk 10) := rfl

theorem invCipher_eq (b : Block) (rk : Vector Block 11) :
    invCipher b rk =
      addRoundKey (inverseRounds rk (invSubBytes (invShiftRows (addRoundKey b (roundKey rk 10))))) (roundKey rk 0) := by
  rw [← foldl_inverseRound]
  rfl

theorem inverseRounds_forwardRounds (rk : Vector Block 11) (b : Block) : inverseRounds rk (forwardRounds rk b) = b :=
  foldl_reverse_foldl_of_cancel fullRounds
    (fun r hr t => inverseRound_forwardRound rk t r (le_ten_of_mem_fullRounds r hr)) b

theorem forwardRounds_inverseRounds (rk : Vector Block 11) (b : Block) : forwardRounds rk (inverseRounds rk b) = b :=
  foldl_reverse_foldl_of_cancel fullRounds.reverse
    (fun r hr t => forwardRound_inverseRound rk t r (le_ten_of_mem_fullRounds r (List.mem_reverse.mp hr))) b

/-! ### The block functions -/

theorem invCipher_cipher (b : Block) (rk : Vector Block 11) : invCipher (cipher b rk) rk = b := by
  rw [cipher_eq, invCipher_eq, addRoundKey_self, invShiftRows_shiftRows, invSubBytes_subBytes,
    inverseRounds_forwardRounds, addRoundKey_self]

theorem cipher_invCipher (b : Block) (rk : Vector Block 11) : cipher (invCipher b rk) rk = b := by
  rw [cipher_eq, invCipher_eq, addRoundKey_self, forwardRounds_inverseRounds, subBytes_invSubBytes,
    shiftRows_invShiftRows, addRoundKey_self]

/-! ### The commands on `S` and `RK` -/

/-- With a key loaded such a command writes `S` and nothing else (R194, R195). -/
theorem keyedCommand_writes_block (f : Block → Vector Block 11 → Block) (s : State) (h : s.kvalid = true) :
    ∃ t, keyedCommand f s = .next t ∧ t.sreg = f s.sreg s.rk ∧ OnlyBlockRegister s t :=
  ⟨_, keyedCommand_loaded f s h, rfl, onlyBlockRegister_complete s _⟩

/-- Without one it ends in KeyNotLoaded (R264) and the round keys stay (R270). -/
theorem keyedCommand_ends_keyNotLoaded (f : Block → Vector Block 11 → Block) (s : State) (h : s.kvalid = false) :
    ∃ t, keyedCommand f s = .next t ∧ EndedInError .keyNotLoaded s t ∧ KeepsSchedule s t :=
  ⟨_, keyedCommand_notLoaded f s h, raise_endedInError _ s, raise_keepsSchedule _ s⟩

/-! ### The obligations -/

/-- Settles O46: the rounds 1..9 cancel as a sequence, and the steps around them one by one. -/
theorem blockTransformRoundTrip : Obligations.BlockTransformRoundTrip :=
  fun b rk => ⟨invCipher_cipher b rk, cipher_invCipher b rk⟩

/-- Settles O26: both are keyed commands, one with the forward and one with the inverse block function. -/
theorem blockTransformCommands : Obligations.BlockTransformCommands := by
  refine ⟨rfl, rfl, fun s => ⟨fun hloaded => ?loaded, fun hnone => ?notLoaded⟩⟩
  case loaded =>
    exact ⟨keyedCommand_writes_block cipher s hloaded, keyedCommand_writes_block invCipher s hloaded⟩
  case notLoaded =>
    exact ⟨keyedCommand_ends_keyNotLoaded cipher s hnone, keyedCommand_ends_keyNotLoaded invCipher s hnone⟩

end Sys2Proof.Machine
end

section
/-! PROOFS. Padding (`46_padding.md` R205 to R207) and the commands PAD (R208) and UNPAD (R209). Everything follows from
one fact: `unpad` accepts exactly the strings that end in `p` bytes of value `p`, and takes those bytes off. -/

namespace Sys2Proof.Machine

open Sys2Proof

/-! ### What `unpad` accepts -/

/-- `d` ends in `p` bytes of value `p`, with `p` = 1..16 (the test of R206). -/
def EndsInPadding (d : List Byte) (p : Nat) : Prop :=
  1 ≤ p ∧ p ≤ 16 ∧ p ≤ d.length ∧ ∀ j, j < p → (d.getD (d.length - 1 - j) 0).toNat = p

theorem EndsInPadding.lastByte_toNat {d : List Byte} {p : Nat} (h : EndsInPadding d p) : (lastByte d).toNat = p := by
  obtain ⟨hpos, -, -, hbytes⟩ := h
  exact hbytes 0 hpos

theorem paddingBytesAgree_iff (d : List Byte) (p : Byte) :
    paddingBytesAgree d p = true ↔ ∀ j, j < p.toNat → (d.getD (d.length - 1 - j) 0).toNat = p.toNat := by
  simp only [paddingBytesAgree, List.all_eq_true, List.mem_range, beq_iff_eq, BitVec.toNat_inj, Nat.sub_sub,
    Nat.add_comm 1]

/-- R206: `unpad` takes the padding off. -/
theorem EndsInPadding.unpad_eq {d : List Byte} {p : Nat} (h : EndsInPadding d p) :
    unpad d = some (d.take (d.length - p)) := by
  have hlast := h.lastByte_toNat
  obtain ⟨hpos, hle, hlen, hbytes⟩ := h
  have hagree : paddingBytesAgree d (lastByte d) = true := (paddingBytesAgree_iff d _).2 (by rwa [hlast])
  rw [unpad, hlast, if_neg (by omega), if_neg (by omega), if_neg (by omega), if_pos hagree]

/-- R206: `unpad` accepts nothing else. -/
theorem endsInPadding_of_unpad {d m : List Byte} (h : unpad d = some m) : EndsInPadding d (lastByte d).toNat := by
  unfold unpad at h
  split_ifs at h with _ hrange hlen hagree
  exact ⟨by omega, by omega, by omega, (paddingBytesAgree_iff d _).1 hagree⟩

theorem unpad_eq_none {d : List Byte} (h : ¬ EndsInPadding d (lastByte d).toNat) : unpad d = none := by
  cases hm : unpad d with
  | none => rfl
  | some m => exact absurd (endsInPadding_of_unpad hm) h

/-! ### Padding put on and taken off -/

/-- `p` bytes of value `p`: what `pad` appends (R205). -/
def paddingOf (p : Nat) : List Byte := List.replicate p (BitVec.ofNat 8 p)

@[simp] theorem paddingOf_length (p : Nat) : (paddingOf p).length = p := List.length_replicate

theorem pad_eq (m : List Byte) : pad m = m ++ paddingOf (padLength m.length) := rfl

theorem paddingOf_getD_toNat (p j : Nat) (hp : p ≤ 16) (hj : j < p) : ((paddingOf p).getD j 0).toNat = p := by
  rw [paddingOf, List.getD_replicate _ hj, BitVec.toNat_ofNat]
  omega

theorem padLength_bounds (n : Nat) : 1 ≤ padLength n ∧ padLength n ≤ 16 := by unfold padLength; omega

/-- Any message followed by `p` bytes of value `p` ends in padding. -/
theorem endsInPadding_append (m : List Byte) (p : Nat) (hpos : 1 ≤ p) (hle : p ≤ 16) :
    EndsInPadding (m ++ paddingOf p) p := by
  refine ⟨hpos, hle, by simp, fun j hj => ?_⟩
  rw [List.getD_append_right _ _ _ _ (by simp; omega)]
  exact paddingOf_getD_toNat p _ hle (by simp; omega)

theorem unpad_append_paddingOf (m : List Byte) (p : Nat) (hpos : 1 ≤ p) (hle : p ≤ 16) :
    unpad (m ++ paddingOf p) = some m := by
  rw [(endsInPadding_append m p hpos hle).unpad_eq]
  simp

/-- The padding at the end of `d` is `paddingOf p`, byte for byte. -/
theorem EndsInPadding.drop_eq {d : List Byte} {p : Nat} (h : EndsInPadding d p) :
    d.drop (d.length - p) = paddingOf p := by
  obtain ⟨-, hle, hlen, hbytes⟩ := h
  refine List.eq_replicate_iff.2 ⟨by rw [List.length_drop]; omega, fun b hb => ?_⟩
  obtain ⟨k, hk, rfl⟩ := List.mem_iff_getElem.1 hb
  rw [List.length_drop] at hk
  have hbyte := hbytes (p - 1 - k) (by omega)
  rw [show d.length - 1 - (p - 1 - k) = d.length - p + k by omega, List.getD_eq_getElem _ _ (by omega)] at hbyte
  rw [List.getElem_drop]
  exact BitVec.eq_of_toNat_eq (by rw [hbyte, BitVec.toNat_ofNat]; omega)

/-- A string that `unpad` accepts is its result followed by `p` bytes of value `p`. -/
theorem eq_append_of_unpad {d m : List Byte} (h : unpad d = some m) : ∃ p, 1 ≤ p ∧ p ≤ 16 ∧ d = m ++ paddingOf p := by
  have hpad := endsInPadding_of_unpad h
  obtain rfl : d.take _ = m := Option.some.inj (hpad.unpad_eq.symm.trans h)
  have hcut := (List.take_append_drop (d.length - (lastByte d).toNat) d).symm
  rw [hpad.drop_eq] at hcut
  obtain ⟨hpos, hle, -, -⟩ := hpad
  exact ⟨_, hpos, hle, hcut⟩

/-- When the whole is a multiple of 16 bytes, the padding is the one `pad` chooses (R205). -/
theorem pad_eq_append_paddingOf (m : List Byte) (p : Nat) (hpos : 1 ≤ p) (hle : p ≤ 16)
    (hlen : (m ++ paddingOf p).length % 16 = 0) : pad m = m ++ paddingOf p := by
  rw [List.length_append, paddingOf_length] at hlen
  rw [pad_eq, show padLength m.length = p by unfold padLength; omega]

/-! ### The input bytes -/

theorem inputBytes_getD (s : State) (j : Nat) (hj : j < inputLength s) : (inputBytes s).getD j 0 = ibufByte s j := by
  simp [inputBytes, ibufBytes, hj]

/-- The last byte of a non-empty input (R209). -/
theorem lastByte_inputBytes (s : State) (hne : inputLength s ≠ 0) :
    lastByte (inputBytes s) = ibufByte s (inputLength s - 1) := by
  rw [lastByte, inputBytes_length, inputBytes_getD s _ (by omega)]

/-- The test of R206 on an input of at least a block, in the bytes of IBUF. -/
theorem endsInPadding_inputBytes_iff (s : State) (p : Nat) (hblock : 16 ≤ inputLength s) :
    EndsInPadding (inputBytes s) p ↔
      1 ≤ p ∧ p ≤ 16 ∧ ∀ j, j < p → (ibufByte s (inputLength s - 1 - j)).toNat = p := by
  have hbyte (j : Nat) : (inputBytes s).getD (inputLength s - 1 - j) 0 = ibufByte s (inputLength s - 1 - j) :=
    inputBytes_getD s _ (by omega)
  simp only [EndsInPadding, inputBytes_length, hbyte]
  constructor
  · rintro ⟨hpos, hle, -, hbytes⟩
    exact ⟨hpos, hle, hbytes⟩
  · rintro ⟨hpos, hle, hbytes⟩
    exact ⟨hpos, hle, by omega, hbytes⟩

/-- The padded input begins with the input. -/
theorem pad_inputBytes_getD_message (s : State) (j : Nat) (hj : j < inputLength s) :
    (pad (inputBytes s)).getD j 0 = ibufByte s j := by
  rw [pad_eq, List.getD_append _ _ _ _ (by simpa using hj), inputBytes_getD s j hj]

/-- The bytes after it have the value `16 - ILEN mod 16`. -/
theorem pad_inputBytes_getD_padding (s : State) (j : Nat) (hlo : inputLength s ≤ j)
    (hhi : j < 16 * (inputLength s / 16 + 1)) :
    ((pad (inputBytes s)).getD j 0).toNat = 16 - inputLength s % 16 := by
  rw [pad_eq, List.getD_append_right _ _ _ _ (by simpa using hlo), inputBytes_length]
  exact paddingOf_getD_toNat _ _ (padLength_bounds _).2 (by unfold padLength; omega)

/-! ### The commands -/

/-- A command that stores its result and completes keeps everything but OBUF, OLEN and the flags (R208, R209). -/
theorem complete_storeResult_frame (v : List Byte) (s : State) :
    Succeeded s (complete (storeResult v s)) ∧ KeepsInputs s (complete (storeResult v s)) ∧
      KeepsSchedule s (complete (storeResult v s)) ∧ KeepsPorts s (complete (storeResult v s)) ∧
      (complete (storeResult v s)).sreg = s.sreg ∧ (complete (storeResult v s)).cv = s.cv ∧
      (complete (storeResult v s)).rngResp = s.rngResp :=
  ⟨⟨rfl, rfl, rfl, rfl, rfl⟩, KeepsInputs.refl s, ⟨rfl, rfl⟩, ⟨rfl, rfl, rfl, rfl, rfl, rfl⟩, rfl, rfl, rfl⟩

/-- Completion does not touch the stored result. -/
theorem complete_storeResult_outputIs (v : List Byte) (s : State) (hv : v.length ≤ capacity s) :
    OutputIs v s (complete (storeResult v s)) :=
  storeResult_outputIs v s hv

theorem exec_pad_of_fits (s : State) (h : 16 * (inputLength s / 16 + 1) ≤ capacity s) :
    exec .pad s = .next (complete (storeResult (pad (inputBytes s)) s)) :=
  if_neg (Nat.not_lt.2 h)

theorem exec_pad_of_overflow (s : State) (h : capacity s < 16 * (inputLength s / 16 + 1)) :
    exec .pad s = .next (raise .bufferOverflow s) :=
  if_pos h

theorem exec_unpad_of_overflow (s : State) (h : capacity s < inputLength s) :
    exec .unpad s = .next (raise .bufferOverflow s) :=
  if_pos h

theorem exec_unpad_of_badLength (s : State) (hfit : inputLength s ≤ capacity s)
    (h : inputLength s = 0 ∨ inputLength s % 16 ≠ 0) :
    exec .unpad s = .next (raise .invalidCiphertextLength s) :=
  (if_neg (Nat.not_lt.2 hfit)).trans (if_pos (decide_eq_true h))

section
variable (s : State) (hfit : inputLength s ≤ capacity s) (hne : inputLength s ≠ 0) (hmul : inputLength s % 16 = 0)
include hfit hne hmul

/-- Past the checks of R209 the end of UNPAD is that of `unpad`. -/
theorem exec_unpad_of_checked :
    exec .unpad s =
      (unpad (inputBytes s)).elim (.next (raise .invalidPadding s)) (fun m => .next (complete (storeResult m s))) := by
  have hgood : ¬ badCiphertextLength (inputLength s) = true := by simp [badCiphertextLength, hne, hmul]
  refine (if_neg (Nat.not_lt.2 hfit)).trans ((if_neg hgood).trans ?_)
  cases unpad (inputBytes s) <;> rfl

theorem exec_unpad_of_padded (p : Nat) (h : EndsInPadding (inputBytes s) p) :
    exec .unpad s = .next (complete (storeResult ((inputBytes s).take (inputLength s - p)) s)) := by
  rw [exec_unpad_of_checked s hfit hne hmul, h.unpad_eq, inputBytes_length, Option.elim_some]

theorem exec_unpad_of_notPadded (h : ¬ EndsInPadding (inputBytes s) (ibufByte s (inputLength s - 1)).toNat) :
    exec .unpad s = .next (raise .invalidPadding s) := by
  rw [← lastByte_inputBytes s hne] at h
  rw [exec_unpad_of_checked s hfit hne hmul, unpad_eq_none h, Option.elim_none]

end

/-- What an error of R270 leaves, in the form the obligations ask for. -/
theorem exec_endsInError_of_raise {i : Instr} {s : State} {e : ErrKind} (h : exec i s = .next (raise e s)) :
    ∃ t, exec i s = .next t ∧ EndedInError e s t ∧ KeepsSchedule s t :=
  ⟨_, h, raise_endedInError e s, raise_keepsSchedule e s⟩

/-! ### The obligations -/

/-- Settles O48: `unpad` accepts exactly a string followed by `p` bytes of value `p`; `pad` appends such bytes, and on a
multiple of 16 no other `p` fits. -/
theorem paddingRoundTrip : Obligations.PaddingRoundTrip := by
  refine ⟨fun m => ⟨?unpadPad, pad_length m⟩, fun d m hlen hm => ?padUnpad, fun m => ?notShortest⟩
  case unpadPad =>
    obtain ⟨hpos, hle⟩ := padLength_bounds m.length
    exact unpad_append_paddingOf m _ hpos hle
  case padUnpad =>
    obtain ⟨p, hpos, hle, rfl⟩ := eq_append_of_unpad hm
    exact pad_eq_append_paddingOf m p hpos hle hlen
  case notShortest =>
    have hcut : m ++ [2, 2, 2] = (m ++ [2]) ++ paddingOf 2 := by simp [paddingOf]
    rw [hcut, unpad_append_paddingOf _ 2 (by omega) (by omega)]

/-- Settles O27: with room the result is the padded input, whose bytes are those of the input and then the pad bytes. -/
theorem padCommand : Obligations.PadCommand := by
  refine ⟨rfl, fun s => ⟨fun hfit => ?fits, fun hover => exec_endsInError_of_raise (exec_pad_of_overflow s hover)⟩⟩
  case fits =>
    have hlen : (pad (inputBytes s)).length = 16 * (inputLength s / 16 + 1) := by rw [pad_length, inputBytes_length]
    obtain ⟨holen, hresult, hzero⟩ := complete_storeResult_outputIs (pad (inputBytes s)) s (by omega)
    rw [hlen] at holen hresult hzero
    refine ⟨_, exec_pad_of_fits s hfit, holen, fun j hj => ?message, fun j hlo hhi => ?padding, ?zeros,
      complete_storeResult_frame _ s⟩
    case message => rw [hresult j (by omega), pad_inputBytes_getD_message s j hj]
    case padding =>
      rw [holen] at hhi
      rw [hresult j hhi, pad_inputBytes_getD_padding s j hlo hhi]
    case zeros => rwa [holen]

/-- Settles O28: the checks in their order; past them the input ends in padding or it does not. -/
theorem unpadCommand : Obligations.UnpadCommand := by
  refine ⟨rfl, fun s => ⟨fun hover => exec_endsInError_of_raise (exec_unpad_of_overflow s hover),
    fun hfit hbad => exec_endsInError_of_raise (exec_unpad_of_badLength s hfit hbad),
    fun p hfit hne hmul hp => ?checked⟩⟩
  case checked =>
    rw [← endsInPadding_inputBytes_iff s p (by omega)]
    refine ⟨fun hpad => ?padded, fun hnot => ?notPadded⟩
    case notPadded => exact exec_endsInError_of_raise (exec_unpad_of_notPadded s hfit hne hmul (hp ▸ hnot))
    case padded =>
      have hlen : ((inputBytes s).take (inputLength s - p)).length = inputLength s - p := by simp
      obtain ⟨holen, hresult, hzero⟩ :=
        complete_storeResult_outputIs ((inputBytes s).take (inputLength s - p)) s (by omega)
      rw [hlen] at holen hresult hzero
      refine ⟨_, exec_unpad_of_padded s hfit hne hmul p hpad, holen, fun j hj => ?message, hzero,
        complete_storeResult_frame _ s⟩
      case message =>
        rw [hresult j hj, List.getD_eq_getElem?_getD, List.getElem?_take_of_lt hj, ← List.getD_eq_getElem?_getD,
          inputBytes_getD s j (by omega)]

end Sys2Proof.Machine
end

section
/-! PROOFS. The mode controller (`47_mode_controller.md` R220 to R230): the two block loops, the message functions, the
checks and ends of the four message commands, and the random port. The round trip of the commands is the round trip of
the message functions, which is the one of the block loops with padding around it. -/

namespace Sys2Proof.Machine

open Sys2Proof

/-! ### The block loops undo each other -/

theorem chainIn_chainIn (mode : Mode) (cv b : Block) : chainIn mode cv (chainIn mode cv b) = b := by
  cases mode with
  | ecb => rfl
  | cbc => exact Block.xor_self_right b cv

theorem decryptLoop_encryptLoop (rk : Vector Block 11) (mode : Mode) (cv : Block) (bs : List Block) :
    decryptLoop rk mode cv (encryptLoop rk mode cv bs) = bs := by
  induction bs generalizing cv with
  | nil => rfl
  | cons b bs ih => rw [encryptLoop, decryptLoop, invCipher_cipher, chainIn_chainIn, ih]

/-! ### What each block depends on -/

/-- The ECB loops work on every block alone. -/
theorem messageLoop_ecb (dir : Direction) (rk : Vector Block 11) (cv : Block) (xs : List Block) :
    messageLoop dir .ecb rk cv xs = xs.map (blockOutput dir .ecb rk cv) := by
  have hchain (x : Block) : blockChain dir .ecb rk cv x = cv := by cases dir <;> rfl
  induction xs with
  | nil => rfl
  | cons x xs ih => rw [messageLoop, hchain, ih, List.map_cons]

/-- The ciphertext side of a block loop: what an encryption puts out, what a decryption takes in. -/
def ciphertextSide (dir : Direction) (mode : Mode) (rk : Vector Block 11) (cv : Block) (xs : List Block) : List Block :=
  match dir with
  | .encrypt => messageLoop .encrypt mode rk cv xs
  | .decrypt => xs

/-- In CBC the next chaining variable is the ciphertext block just processed. -/
theorem ciphertextSide_cbc_cons (dir : Direction) (rk : Vector Block 11) (cv x : Block) (xs : List Block) :
    ciphertextSide dir .cbc rk cv (x :: xs) =
      blockChain dir .cbc rk cv x :: ciphertextSide dir .cbc rk (blockChain dir .cbc rk cv x) xs := by
  cases dir <;> rfl

/-- Block `q` of a CBC loop is chained to ciphertext block `q - 1`, the first one to the initial `cv`; `d` is never
reached. -/
theorem messageLoop_cbc_getElem? (dir : Direction) (rk : Vector Block 11) (cv d : Block) (xs : List Block) (q : Nat) :
    (messageLoop dir .cbc rk cv xs)[q]? =
      (xs[q]?).map (blockOutput dir .cbc rk ((cv :: ciphertextSide dir .cbc rk cv xs).getD q d)) := by
  induction xs generalizing cv q with
  | nil => rfl
  | cons x xs ih =>
    cases q with
    | zero => rfl
    | succ q =>
      rw [ciphertextSide_cbc_cons, List.getD_cons_succ, messageLoop, List.getElem?_cons_succ, List.getElem?_cons_succ]
      exact ih _ q

/-! ### The message functions -/

theorem unpad_pad (m : List Byte) : unpad (pad m) = some m :=
  unpad_append_paddingOf m _ (padLength_bounds _).1 (padLength_bounds _).2

theorem bytesOf_blocksOf_pad (m : List Byte) : bytesOf (blocksOf (pad m)) = pad m :=
  bytesOf_blocksOf (m.length / 16 + 1) _ (pad_length m)

/-- Before unpadding, decryption gives the padded message back. -/
theorem decryptStream_encryptMessage (m : List Byte) (rk : Vector Block 11) (mode : Mode) (iv : Block) :
    decryptStream (encryptMessage m rk mode iv) rk mode = pad m := by
  cases mode with
  | ecb => rw [encryptMessage, decryptStream, blocksOf_bytesOf, decryptLoop_encryptLoop, bytesOf_blocksOf_pad]
  | cbc =>
    rw [encryptMessage, decryptStream, blockAt_toList_append, List.drop_left' iv.length_toList, blocksOf_bytesOf,
      decryptLoop_encryptLoop, bytesOf_blocksOf_pad]

theorem decryptMessage_encryptMessage (m : List Byte) (rk : Vector Block 11) (mode : Mode) (iv : Block) :
    decryptMessage (encryptMessage m rk mode iv) rk mode = some m := by
  rw [decryptMessage, decryptStream_encryptMessage, unpad_pad]

/-- Byte `j` of the IV stands at the front of a CBC ciphertext (R222). -/
theorem encryptMessage_cbc_getD (m : List Byte) (rk : Vector Block 11) (iv : Block) (j : Nat) (hj : j < 16) :
    (encryptMessage m rk .cbc iv).getD j 0 = iv.get j := by
  rw [encryptMessage, List.getD_append _ _ _ _ (by simpa using hj), Block.toList_getD iv j hj]

/-- An encrypted message is a length that a decryption accepts (R220). -/
theorem encryptedLength_isCiphertextLength (mode : Mode) (n : Nat) :
    encryptedLength mode n ≠ 0 ∧ encryptedLength mode n % 16 = 0 := by
  cases mode <;> simp only [encryptedLength, paddedLength] <;> omega

/-! ### The checks of R220 -/

section
variable (s : State)

theorem encryptCheck_of_notLoaded (mode : Mode) (hkey : s.kvalid = false) :
    encryptCheck mode s = some .keyNotLoaded := by
  simp [encryptCheck, hkey]

theorem encryptCheck_of_overflow (mode : Mode) (hkey : s.kvalid = true)
    (hover : capacity s < encryptedLength mode (inputLength s)) : encryptCheck mode s = some .bufferOverflow := by
  simp [encryptCheck, hkey, hover]

theorem encryptCheck_of_fits (mode : Mode) (hkey : s.kvalid = true)
    (hfit : encryptedLength mode (inputLength s) ≤ capacity s) : encryptCheck mode s = none := by
  simp [encryptCheck, hkey, hfit]

theorem decryptCheck_of_notLoaded (hkey : s.kvalid = false) : decryptCheck s = some .keyNotLoaded := by
  simp [decryptCheck, hkey]

theorem decryptCheck_of_overflow (hkey : s.kvalid = true) (hover : capacity s < inputLength s) :
    decryptCheck s = some .bufferOverflow := by
  simp [decryptCheck, hkey, hover]

theorem decryptCheck_of_badLength (hkey : s.kvalid = true) (hfit : inputLength s ≤ capacity s)
    (hbad : inputLength s = 0 ∨ inputLength s % 16 ≠ 0) : decryptCheck s = some .invalidCiphertextLength := by
  have hlen : badCiphertextLength (inputLength s) = true := decide_eq_true hbad
  simp [decryptCheck, hkey, Nat.not_lt.2 hfit, hlen]

theorem decryptCheck_of_goodLength (hkey : s.kvalid = true) (hfit : inputLength s ≤ capacity s)
    (hne : inputLength s ≠ 0) (hmul : inputLength s % 16 = 0) : decryptCheck s = none := by
  have hlen : badCiphertextLength (inputLength s) = false := by simp [badCiphertextLength, hne, hmul]
  simp [decryptCheck, hkey, Nat.not_lt.2 hfit, hlen]

end

/-! ### The encryption commands -/

theorem exec_encEcb_refused (s : State) (e : ErrKind) (hc : encryptCheck .ecb s = some e) :
    exec .encEcb s = .next (raise e s) := by
  simp only [exec, execEncEcb, hc]

theorem exec_encEcb_passed (s : State) (hc : encryptCheck .ecb s = none) :
    exec .encEcb s = .next (finishMessage (encryptMessage (inputBytes s) s.rk .ecb Block.zero) s) := by
  simp only [exec, execEncEcb, hc]

/-- ENC.CBC before its draw is answered (R280; log 4). -/
theorem exec_encCbc_waiting (s : State) (hc : encryptCheck .cbc s = none) (hr : s.rngResp = none) :
    exec .encCbc s = .next s := by
  simp only [exec, execEncCbc, hc, hr]

theorem encEcb_messageDone (s : State) (hc : encryptCheck .ecb s = none) :
    ∃ t, exec .encEcb s = .next t ∧ MessageDone (encryptMessage (inputBytes s) s.rk .ecb Block.zero) s t ∧
      t.rngResp = s.rngResp :=
  ⟨_, exec_encEcb_passed s hc, finishMessage_messageDone _ s s.rngResp (encryptMessage_fits .ecb s _ hc), rfl⟩

theorem encCbc_messageDone (s : State) (iv : Block) (hc : encryptCheck .cbc s = none) (hr : s.rngResp = some iv) :
    ∃ t, exec .encCbc s = .next t ∧ MessageDone (encryptMessage (inputBytes s) s.rk .cbc iv) s t ∧ t.rngResp = none :=
  ⟨_, exec_encCbc_answered s iv hc hr, finishMessage_messageDone _ s none (encryptMessage_fits .cbc s iv hc), rfl⟩

section
variable (i : Instr) (mode : Mode) (hk : seqKind i = .message .encrypt mode) (s : State)
include hk

theorem exec_encrypt_refused (e : ErrKind) (hc : encryptCheck mode s = some e) : exec i s = .next (raise e s) := by
  cases i with
  | encEcb => cases hk; exact exec_encEcb_refused s e hc
  | encCbc => cases hk; exact exec_encCbc_refused s e hc
  | _ => cases hk

/-- An encryption command whose checks pass waits for its draw or stores the encrypted message. -/
theorem exec_encrypt_passed (hc : encryptCheck mode s = none) :
    exec i s = .next s ∨
      ∃ t iv, exec i s = .next t ∧ MessageDone (encryptMessage (inputBytes s) s.rk mode iv) s t := by
  cases i with
  | encEcb =>
    cases hk
    obtain ⟨t, ht, hresult, -⟩ := encEcb_messageDone s hc
    exact .inr ⟨t, Block.zero, ht, hresult⟩
  | encCbc =>
    cases hk
    cases hr : s.rngResp with
    | none => exact .inl (exec_encCbc_waiting s hc hr)
    | some iv =>
      obtain ⟨t, ht, hresult, -⟩ := encCbc_messageDone s iv hc hr
      exact .inr ⟨t, iv, ht, hresult⟩
  | _ => cases hk

/-- An encryption command that completes without error has passed its checks and stored the encrypted message. -/
theorem exec_encrypt_inversion (t : State) (hexec : exec i s = .next t) (herr : t.err = false) (hdone : t.done = true)
    (hrun : s.done = false) :
    encryptCheck mode s = none ∧ ∃ iv, MessageDone (encryptMessage (inputBytes s) s.rk mode iv) s t := by
  cases hc : encryptCheck mode s with
  | some e =>
    rw [exec_encrypt_refused i mode hk s e hc] at hexec
    cases hexec
    cases herr
  | none =>
    obtain hwait | ⟨u, iv, hu, hresult⟩ := exec_encrypt_passed i mode hk s hc
    · rw [hwait] at hexec
      cases hexec
      exact Bool.noConfusion (hrun.symm.trans hdone)
    · rw [hu] at hexec
      cases hexec
      exact ⟨rfl, iv, hresult⟩

end

/-! ### The decryption commands -/

theorem seqKind_of_decryption {i : Instr} (h : i = .decEcb ∨ i = .decCbc) :
    ∃ mode, seqKind i = .message .decrypt mode := by
  obtain rfl | rfl := h
  · exact ⟨.ecb, rfl⟩
  · exact ⟨.cbc, rfl⟩

section
variable (i : Instr) (mode : Mode) (hk : seqKind i = .message .decrypt mode) (s : State)
include hk

theorem exec_decrypt_refused (e : ErrKind) (hc : decryptCheck s = some e) : exec i s = .next (raise e s) := by
  rw [exec_decrypt i mode s hk, decryptCommand, hc]

theorem exec_decrypt_notPadded (hc : decryptCheck s = none) (hm : decryptMessage (inputBytes s) s.rk mode = none) :
    exec i s = .next (raise .invalidPadding s) := by
  simp only [exec_decrypt i mode s hk, decryptCommand, hc, hm]

theorem decrypt_messageDone (m : List Byte) (hc : decryptCheck s = none)
    (hm : decryptMessage (inputBytes s) s.rk mode = some m) :
    ∃ t, exec i s = .next t ∧ MessageDone m s t ∧ t.rngResp = s.rngResp := by
  have hexec : exec i s = .next (finishMessage m s) := by
    simp only [exec_decrypt i mode s hk, decryptCommand, hc, hm]
  have hshort := decryptMessage_length_lt _ m s.rk mode hm
  rw [inputBytes_length] at hshort
  have hfit := (decryptCheck_none s hc).2.1
  exact ⟨_, hexec, finishMessage_messageDone m s s.rngResp (by omega), rfl⟩

end

/-! ### The host's copy of a result -/

/-- The host reads back the stored result. -/
theorem OutputIs.outputBytes_eq {v : List Byte} {s t : State} (h : OutputIs v s t) : outputBytes t = v := by
  obtain ⟨hlen, hbytes, -⟩ := h
  refine List.ext_getElem (by simp [outputBytes, obufBytes, hlen]) fun j _ hj => ?_
  simp [outputBytes, obufBytes, hbytes j hj, hj]

/-- OBUF[0..OLEN) copied to IBUF, and OLEN to ILEN, makes the one state's output the other's input. -/
theorem inputBytes_of_copy (t u : State) (hlen : u.ilen = t.olen)
    (hbytes : ∀ j, j < outputLength t → ibufByte u j = obufByte t j) : inputBytes u = outputBytes t := by
  have hlen' : inputLength u = outputLength t := congrArg BitVec.toNat hlen
  rw [inputBytes, outputBytes, ibufBytes, obufBytes, hlen']
  refine List.map_congr_left fun j hj => ?_
  rw [Nat.zero_add]
  exact hbytes j (List.mem_range.1 hj)

/-- The decryption command on an encrypted message that fits gives the message back. -/
theorem exec_decrypt_of_encrypted (i : Instr) (mode : Mode) (hk : seqKind i = .message .decrypt mode) (u : State)
    (m : List Byte) (iv : Block) (hkey : u.kvalid = true) (hfit : encryptedLength mode m.length ≤ capacity u)
    (hinput : inputBytes u = encryptMessage m u.rk mode iv) : ∃ v, exec i u = .next v ∧ MessageDone m u v := by
  have hlen : inputLength u = encryptedLength mode m.length := by
    rw [← inputBytes_length, hinput, encryptMessage_length_eq]
  obtain ⟨hne, hmul⟩ := encryptedLength_isCiphertextLength mode m.length
  rw [← hlen] at hfit hne hmul
  have hplain : decryptMessage (inputBytes u) u.rk mode = some m := by rw [hinput, decryptMessage_encryptMessage]
  obtain ⟨v, hexec, hdone, -⟩ :=
    decrypt_messageDone i mode hk u m (decryptCheck_of_goodLength u hkey hfit hne hmul) hplain
  exact ⟨v, hexec, hdone⟩

/-! ### The random port -/

/-- The condition of R220 and R224 for an answer to be taken, with 0x11 the byte of ENC.CBC. -/
theorem drawOutstanding_iff (s : State) :
    drawOutstanding s = true ↔ s.busy = true ∧ s.opc = 0x11 ∧ encryptCheck .cbc s = none ∧ s.rngResp = none := by
  have hbyte : encode .encCbc = 0x11 := rfl
  simp only [drawOutstanding, hbyte, Bool.and_eq_true, decide_eq_true_eq, and_assoc]

theorem step_of_rngAnswer (s : State) (iv : Block) (rest : List Event) (h : s.inbox = .rngAnswer iv :: rest) :
    step s = .next (takeRngAnswer iv { s with inbox := rest }) :=
  step_of_event s _ rest h

/-! ### The obligations -/

/-- Settles O17: an answer that lands is taken exactly while a draw is outstanding, and the inbox does not bear on that. -/
theorem randomAnswerTakenOrIgnored : Obligations.RandomAnswerTakenOrIgnored := by
  intro s iv rest hin
  rw [step_of_rngAnswer s iv rest hin]
  have houtstanding := drawOutstanding_iff { s with inbox := rest }
  exact ⟨fun htake => congrArg _ (if_pos (houtstanding.2 htake)),
    fun hignore => congrArg _ (if_neg (mt houtstanding.1 hignore))⟩

/-- Settles O50: padding makes whole blocks, the loop keeps their number, and CBC puts the IV in front. -/
theorem encryptedLengthAndIv : Obligations.EncryptedLength := by
  refine fun m rk iv => ⟨encryptMessage_length_eq m rk .ecb iv, ?cbcLength, List.take_left' iv.length_toList⟩
  case cbcLength => exact (encryptMessage_length_eq m rk .cbc iv).trans (Nat.add_comm _ _)

/-- Settles O51: ECB works on every block alone, CBC on every block and the ciphertext block before it. -/
theorem chainingByBlock : Obligations.ChainingByBlock := by
  intro rk iv bs q _
  simp only [← messageLoop_encrypt, ← messageLoop_decrypt]
  refine ⟨?ecbEncrypt, messageLoop_cbc_getElem? .encrypt rk iv iv bs q, ?ecbDecrypt,
    messageLoop_cbc_getElem? .decrypt rk iv iv bs q⟩
  case ecbEncrypt => rw [messageLoop_ecb, List.getElem?_map]; rfl
  case ecbDecrypt => rw [messageLoop_ecb, List.getElem?_map]; rfl

/-- Settles O49: the loops undo each other block by block, and `unpad` undoes `pad`. -/
theorem messageRoundTrip : Obligations.MessageRoundTrip := decryptMessage_encryptMessage

/-- Settles O31: without a key every check says KeyNotLoaded; with one the lengths decide, in the order of R220. -/
theorem messageCommandChecks : Obligations.MessageCommandChecks := by
  refine fun s => ⟨fun hkey i hi => ?notLoaded, fun hkey hover => ?ecbOverflow, fun hkey hover => ?cbcOverflow,
    fun hkey hover i hi => ?decryptOverflow, fun hkey hfit hbad i hi => ?badLength⟩
  case notLoaded =>
    obtain rfl | rfl | hdecrypt := hi
    · exact exec_endsInError_of_raise (exec_encrypt_refused _ .ecb rfl s _ (encryptCheck_of_notLoaded s .ecb hkey))
    · exact exec_endsInError_of_raise (exec_encrypt_refused _ .cbc rfl s _ (encryptCheck_of_notLoaded s .cbc hkey))
    · obtain ⟨mode, hk⟩ := seqKind_of_decryption hdecrypt
      exact exec_endsInError_of_raise (exec_decrypt_refused i mode hk s _ (decryptCheck_of_notLoaded s hkey))
  case ecbOverflow =>
    exact exec_endsInError_of_raise (exec_encrypt_refused _ .ecb rfl s _ (encryptCheck_of_overflow s .ecb hkey hover))
  case cbcOverflow =>
    exact exec_endsInError_of_raise (exec_encrypt_refused _ .cbc rfl s _ (encryptCheck_of_overflow s .cbc hkey hover))
  case decryptOverflow =>
    obtain ⟨mode, hk⟩ := seqKind_of_decryption hi
    exact exec_endsInError_of_raise (exec_decrypt_refused i mode hk s _ (decryptCheck_of_overflow s hkey hover))
  case badLength =>
    obtain ⟨mode, hk⟩ := seqKind_of_decryption hi
    exact exec_endsInError_of_raise (exec_decrypt_refused i mode hk s _ (decryptCheck_of_badLength s hkey hfit hbad))

/-- Settles O29: past the checks each encryption stores the encrypted message, which in CBC begins with the IV. -/
theorem encryptCommands : Obligations.EncryptCommands := by
  refine ⟨rfl, rfl, fun s hkey => ⟨fun hfit => encEcb_messageDone s (encryptCheck_of_fits s .ecb hkey hfit),
    fun iv hfit hr => ?cbc⟩⟩
  case cbc =>
    obtain ⟨t, ht, hdone, hused⟩ := encCbc_messageDone s iv (encryptCheck_of_fits s .cbc hkey hfit) hr
    have hlen := encryptMessage_length_eq (inputBytes s) s.rk .cbc iv
    rw [inputBytes_length] at hlen
    have ⟨⟨holen, hbytes, _⟩, _⟩ := hdone
    refine ⟨t, ht, hdone, holen.trans hlen, fun j hj => ?ivByte, hused⟩
    case ivByte =>
      rw [hbytes j (by rw [hlen, encryptedLength]; omega), encryptMessage_cbc_getD _ _ iv j hj]

/-- Settles O30: past the checks each decryption stores the unpadded message or ends in InvalidPadding. -/
theorem decryptCommands : Obligations.DecryptCommands := by
  refine ⟨rfl, rfl, fun s hkey hfit hne hmul => ?_⟩
  have hc := decryptCheck_of_goodLength s hkey hfit hne hmul
  exact ⟨fun m hm => decrypt_messageDone _ .ecb rfl s m hc hm,
    fun hm => exec_endsInError_of_raise (exec_decrypt_notPadded _ .ecb rfl s hc hm),
    fun m hm => decrypt_messageDone _ .cbc rfl s m hc hm,
    fun hm => exec_endsInError_of_raise (exec_decrypt_notPadded _ .cbc rfl s hc hm)⟩

/-- Settles O52: what the encryption stored is the encrypted message, the copy makes it the input of the decryption, and
decryption gives the message back. -/
theorem commandRoundTrip : Obligations.CommandRoundTrip := by
  intro e d s t u hmodes _ hexec hdone hrun herr hcfg hrk hkvalid hilen hcopy huerr
  obtain ⟨mode, hke, hkd⟩ : ∃ mode, seqKind e = .message .encrypt mode ∧ seqKind d = .message .decrypt mode := by
    obtain ⟨rfl, rfl⟩ | ⟨rfl, rfl⟩ := hmodes
    · exact ⟨.ecb, rfl, rfl⟩
    · exact ⟨.cbc, rfl, rfl⟩
  obtain ⟨hc, iv, houtput, -, -, -, -, ⟨htrk, htkvalid⟩, -⟩ :=
    exec_encrypt_inversion e mode hke s t hexec herr hdone hrun
  obtain ⟨hkey, hfit⟩ := encryptCheck_none mode s hc
  have hinput : inputBytes u = encryptMessage (inputBytes s) u.rk mode iv := by
    rw [inputBytes_of_copy t u hilen hcopy, houtput.outputBytes_eq, hrk, htrk]
  have hroom : encryptedLength mode (inputBytes s).length ≤ capacity u := by
    rwa [inputBytes_length, capacity, hcfg]
  obtain ⟨v, hv, hresult, -, -, ⟨-, hvdone, hverr, -⟩, -⟩ :=
    exec_decrypt_of_encrypted d mode hkd u _ iv (by rw [hkvalid, htkvalid, hkey]) hroom hinput
  exact ⟨v, hv, hverr.trans huerr, hvdone, hresult.outputBytes_eq⟩

end Sys2Proof.Machine
end

section
/-! PROOFS. The hex serialization of the host wrapper (`48_host_wrapper.md` R245, R246): on digits the two tables are
inverse, on texts encoder and decoder go two characters a byte. -/

namespace Sys2Proof.Machine

open Sys2Proof

/-! ### One digit -/

theorem hexValue_hexDigit (n : Nat) (hn : n < 16) : hexValue (hexDigit n) = some n := by
  interval_cases n <;> rfl

/-- R246: only `0-9a-f` have a value, so a character with a value is its digit. -/
theorem hexDigit_of_hexValue {c : Char} {n : Nat} (h : hexValue c = some n) : n < 16 ∧ hexDigit n = c := by
  unfold hexValue at h
  split_ifs at h with hdecimal hletter
  · obtain rfl := Option.some.inj h
    refine ⟨by omega, ?_⟩
    rw [hexDigit, if_pos (by omega), Nat.add_sub_cancel' hdecimal.1, Char.ofNat_toNat]
  · obtain rfl := Option.some.inj h
    refine ⟨by omega, ?_⟩
    rw [hexDigit, if_neg (by omega), Nat.add_sub_cancel' (by omega), Char.ofNat_toNat]

/-! ### One byte -/

theorem hexEncode_cons (b : Byte) (bs : List Byte) :
    hexEncode (b :: bs) = hexDigit (b.toNat / 16) :: hexDigit (b.toNat % 16) :: hexEncode bs := rfl

/-- The decoder accepts a pair of characters exactly when both are digits and it accepts the rest. -/
theorem hexDecode_cons_cons (h l : Char) (rest : List Char) (bs : List Byte) :
    hexDecode (h :: l :: rest) = some bs ↔
      ∃ x y tail, hexValue h = some x ∧ hexValue l = some y ∧ hexDecode rest = some tail ∧
        bs = BitVec.ofNat 8 (16 * x + y) :: tail := by
  rw [hexDecode]
  cases hexValue h <;> cases hexValue l <;> cases hexDecode rest <;> simp [eq_comm]

theorem ofNat_hex_digits (b : Byte) : BitVec.ofNat 8 (16 * (b.toNat / 16) + b.toNat % 16) = b := by
  rw [Nat.div_add_mod, BitVec.ofNat_toNat, BitVec.setWidth_eq]

theorem toNat_of_hex_digits (x y : Nat) (hx : x < 16) (hy : y < 16) :
    (BitVec.ofNat 8 (16 * x + y)).toNat / 16 = x ∧ (BitVec.ofNat 8 (16 * x + y)).toNat % 16 = y := by
  rw [BitVec.toNat_ofNat]
  omega

/-! ### Texts -/

theorem hexEncode_length (bs : List Byte) : (hexEncode bs).length = 2 * bs.length := by
  induction bs with
  | nil => rfl
  | cons b bs ih => simp only [hexEncode_cons, List.length_cons, ih]; omega

theorem hexDecode_hexEncode (bs : List Byte) : hexDecode (hexEncode bs) = some bs := by
  induction bs with
  | nil => rfl
  | cons b bs ih =>
    have hb := b.isLt
    rw [hexEncode_cons, hexDecode_cons_cons]
    exact ⟨_, _, bs, hexValue_hexDigit _ (by omega), hexValue_hexDigit _ (by omega), ih, by rw [ofNat_hex_digits]⟩

theorem hexEncode_of_hexDecode (cs : List Char) (bs : List Byte) (h : hexDecode cs = some bs) : hexEncode bs = cs := by
  induction cs using hexDecode.induct generalizing bs with
  | case1 => obtain rfl := Option.some.inj h; rfl
  | case2 => cases h
  | case3 hi lo rest _ _ _ _ _ _ ih | case4 hi lo rest _ ih =>
    obtain ⟨x, y, tail, hx, hy, htail, rfl⟩ := (hexDecode_cons_cons hi lo rest bs).1 h
    obtain ⟨hx16, hxdigit⟩ := hexDigit_of_hexValue hx
    obtain ⟨hy16, hydigit⟩ := hexDigit_of_hexValue hy
    obtain ⟨hdiv, hmod⟩ := toNat_of_hex_digits x y hx16 hy16
    rw [hexEncode_cons, hdiv, hmod, hxdigit, hydigit, ih tail htail]

/-! ### The obligation -/

/-- Settles O58: digit by digit the encoder and the decoder are inverse. -/
theorem hexRoundTrip : Obligations.HexRoundTrip :=
  ⟨fun bs => ⟨hexDecode_hexEncode bs, hexEncode_length bs⟩, hexEncode_of_hexDecode⟩

end Sys2Proof.Machine
end

section
/-! PROOFS. Every step answers, an ENC.CBC that waits for its draw only lets transactions pass (`47_mode_controller.md`
R224, `60_exceptions.md` R280; log 4), an idle engine keeps its flags (R272), and a reset (`70_reset_and_hazards.md` R290). -/

namespace Sys2Proof.Machine

open Sys2Proof

/-! ### Every step answers -/

theorem engineTurn_answers (s : State) : ∃ t, engineTurn s = .next t :=
  (engineTurn_shape s).imp fun _ h => h.1

theorem deliver_answers (e : Event) (s : State) : ∃ t, deliver e s = .next t := by
  cases e with
  | read | write | rngAnswer | reset => exact ⟨_, rfl⟩
  | engine => exact engineTurn_answers s

theorem step_answers (s : State) : ∃ t, step s = .next t := by
  cases hin : s.inbox with
  | nil => rw [step_of_empty s hin]; exact engineTurn_answers s
  | cons e rest => rw [step_of_event s e rest hin]; exact deliver_answers e _

/-! ### An outstanding draw -/

/-- The engine's turn does nothing while the draw is outstanding: 0x11 is ENC.CBC, and it waits. -/
theorem engineTurn_waiting (s : State) (h : drawOutstanding s = true) : engineTurn s = .next s := by
  obtain ⟨hb, hopc, hc, hr⟩ := (drawOutstanding_iff s).1 h
  rw [engineTurn_of_decode s .encCbc hb (by rw [hopc]; rfl), exec_encCbc_waiting s hc hr]

/-- A busy engine's reads are recorded and, but for STATUS, counted. -/
theorem hostRead_busy (a : BitVec 16) (s : State) (hb : s.busy = true) :
    ∃ rs n, hostRead a s = { s with reads := rs, draws := n } := by
  by_cases ha : a = 0x0001
  · rw [ha, hostRead_busy_status s hb]
    exact ⟨_, _, rfl⟩
  · rw [hostRead_busy_other a s hb ha]
    exact ⟨_, _, rfl⟩

/-- Neither an answer at the random port nor a reset is to come. -/
def NoAnswerOrReset (es : List Event) : Prop := ∀ e ∈ es, e ≠ .reset ∧ ∀ iv, e ≠ .rngAnswer iv

/-- Every other event leaves the waiting engine as it is. -/
theorem deliver_waiting (e : Event) (s : State) (h : drawOutstanding s = true) (hreset : e ≠ .reset)
    (hanswer : ∀ iv, e ≠ .rngAnswer iv) : ∃ rs n, deliver e s = .next { s with reads := rs, draws := n } := by
  obtain ⟨hb, -⟩ := (drawOutstanding_iff s).1 h
  cases e with
  | read a =>
    obtain ⟨rs, n, hread⟩ := hostRead_busy a s hb
    exact ⟨rs, n, congrArg _ hread⟩
  | write a d => exact ⟨s.reads, s.draws, congrArg _ (hostWrite_busy a d s hb)⟩
  | rngAnswer iv => exact absurd rfl (hanswer iv)
  | reset => exact absurd rfl hreset
  | engine => exact ⟨s.reads, s.draws, engineTurn_waiting s h⟩

theorem step_waiting (s : State) (h : drawOutstanding s = true) (hin : NoAnswerOrReset s.inbox) :
    ∃ es rs n, NoAnswerOrReset es ∧ step s = .next { s with inbox := es, reads := rs, draws := n } := by
  cases hes : s.inbox with
  | nil => exact ⟨s.inbox, s.reads, s.draws, hin, (step_of_empty s hes).trans (engineTurn_waiting s h)⟩
  | cons e rest =>
    rw [hes] at hin
    obtain ⟨hreset, hanswer⟩ := hin e List.mem_cons_self
    obtain ⟨rs, n, hdeliver⟩ := deliver_waiting e { s with inbox := rest } h hreset hanswer
    exact ⟨rest, rs, n, fun x hx => hin x (List.mem_cons_of_mem e hx), (step_of_event s e rest hes).trans hdeliver⟩

theorem run_succ_of_step {s t : State} (n : Nat) (h : step s = .next t) :
    Host.Core.run Sys2Proof.core (n + 1) s = Host.Core.run Sys2Proof.core n t := by
  have hcore : Sys2Proof.core.step s = .next t := h
  simp only [Host.Core.run, hcore]

/-- The step lemma along a run: the draw is still outstanding after each step, so the next one is of the same kind. -/
theorem run_waiting (n : Nat) (s : State) (h : drawOutstanding s = true) (hin : NoAnswerOrReset s.inbox) :
    ∃ es rs k, Host.Core.run Sys2Proof.core n s = .next { s with inbox := es, reads := rs, draws := k } := by
  induction n generalizing s with
  | zero => exact ⟨s.inbox, s.reads, s.draws, rfl⟩
  | succ n ih =>
    obtain ⟨es, rs, k, hes, hstep⟩ := step_waiting s h hin
    rw [run_succ_of_step n hstep]
    exact ih { s with inbox := es, reads := rs, draws := k } h hes

/-! ### The flags of an idle engine -/

/-- `t` keeps BUSY, DONE, ERR and ERRCODE. -/
def KeepsFlags (s t : State) : Prop := t.err = s.err ∧ t.errcode = s.errcode ∧ t.done = s.done ∧ t.busy = s.busy

theorem KeepsFlags.refl (s : State) : KeepsFlags s s := ⟨rfl, rfl, rfl, rfl⟩

theorem takeRngAnswer_keepsFlags (iv : Block) (s : State) : KeepsFlags s (takeRngAnswer iv s) := by
  unfold takeRngAnswer
  split <;> exact KeepsFlags.refl s

/-- Of the regions only CMD bears on the flags. -/
theorem regionWrite_keepsFlags (r : Region) (d : Byte) (s : State) (hr : r ≠ .cmd) :
    KeepsFlags s (regionWrite r d s) := by
  cases r with
  | cmd => exact absurd rfl hr
  | _ => exact KeepsFlags.refl s

theorem deliver_idle_keepsFlags (e : Event) (s t : State) (hb : s.busy = false) (ht : deliver e s = .next t)
    (hcmd : ∀ d, e ≠ .write 0x0000 d) (hreset : e ≠ .reset) : KeepsFlags s t := by
  cases e with
  | read a =>
    obtain rfl := Host.Outcome.next.inj ht
    rw [hostRead_idle a s hb]
    exact KeepsFlags.refl s
  | write a d =>
    have ha : a ≠ 0x0000 := fun ha => hcmd d (by rw [ha])
    obtain rfl := Host.Outcome.next.inj ht
    rw [hostWrite_idle a d s hb]
    exact regionWrite_keepsFlags _ d s (regionOf_ne_cmd _ a ha)
  | rngAnswer iv =>
    obtain rfl := Host.Outcome.next.inj ht
    exact takeRngAnswer_keepsFlags iv s
  | reset => exact absurd rfl hreset
  | engine =>
    obtain rfl := Host.Outcome.next.inj ((engineTurn_idle s hb).symm.trans ht)
    exact KeepsFlags.refl s

/-! ### Reset -/

theorem statusByte_resetEngine (s : State) : statusByte (resetEngine s) = 0x00 := by
  show statusByte State.reset = 0x00
  decide

/-! ### The obligations -/

/-- Settles O8: an event always answers, and the turn of an ENC.CBC whose draw is outstanding uses up its event only. -/
theorem stepAlwaysAnswersNext : Obligations.StepAlwaysAnswersNext := by
  refine ⟨step_answers, fun s rest hb hopc hc hr hturn => ?waiting⟩
  case waiting =>
    rw [step_of_turn s rest hturn]
    exact engineTurn_waiting { s with inbox := rest } ((drawOutstanding_iff s).2 ⟨hb, hopc, hc, hr⟩)

/-- Settles O32. -/
theorem unansweredDrawNeverCompletes : Obligations.UnansweredDrawNeverCompletes := by
  intro n s t hb hopc hc hr hin hrun
  obtain ⟨es, rs, k, hwait⟩ := run_waiting n s ((drawOutstanding_iff s).2 ⟨hb, hopc, hc, hr⟩) hin
  obtain rfl := Host.Outcome.next.inj (hwait.symm.trans hrun)
  rfl

/-- Settles O36: an idle engine's turn does nothing, and of the transactions only a write to CMD and a reset touch the
flags. -/
theorem errorStaysUntilNextCommand : Obligations.ErrorStaysUntilNextCommand := by
  intro s t hb ht hcmd hreset
  obtain ⟨herr, hcode, hdone, hbusy⟩ : KeepsFlags s t := by
    cases hin : s.inbox with
    | nil => exact deliver_idle_keepsFlags .engine s t hb ((step_of_empty s hin).symm.trans ht) nofun nofun
    | cons e rest =>
      rw [step_of_event s e rest hin] at ht
      rw [hin] at hcmd hreset
      exact deliver_idle_keepsFlags e { s with inbox := rest } t hb ht (fun d he => hcmd d rest (by rw [he]))
        (fun he => hreset rest (by rw [he]))
  exact ⟨herr, hcode, hdone, hbusy.trans hb⟩

/-- Settles O16: the registers are those of the reset value, the rest is what `resetEngine` keeps. -/
theorem resetState : Obligations.ResetState := by
  intro s rest hin
  refine ⟨resetEngine { s with inbox := rest }, step_of_event s .reset rest hin, ?_⟩
  exact ⟨rfl, rfl, fun k _ => roundKey_zeroSchedule k, rfl, rfl, rfl, rfl, rfl, rfl, rfl, rfl, rfl, rfl, rfl, rfl,
    fun _ => rfl, fun _ => rfl, rfl, rfl, statusByte_resetEngine _⟩

end Sys2Proof.Machine
end

section
/-! PROOFS. Errors (`60_exceptions.md` R265 to R270). The error a command ends with is a function of its inputs, and so is
the state error entry leaves: what is said of errors is read off these two functions. -/

namespace Sys2Proof.Machine

open Sys2Proof

/-! ### The error a command ends with -/

/-- The checks of a decryption (R220) and of its padding (R223). -/
def decryptError (mode : Mode) (s : State) : Option ErrKind :=
  match decryptCheck s with
  | some e => some e
  | none => if decryptMessage (inputBytes s) s.rk mode = none then some .invalidPadding else none

/-- The checks of UNPAD in their order (R209). -/
def unpadError (s : State) : Option ErrKind :=
  if capacity s < inputLength s then some .bufferOverflow
  else if badCiphertextLength (inputLength s) then some .invalidCiphertextLength
  else if unpad (inputBytes s) = none then some .invalidPadding
  else none

/-- The error command `i` ends with in state `s`, if any. -/
def commandError (i : Instr) (s : State) : Option ErrKind :=
  match seqKind i with
  | .keySchedule => if s.klen = 16 then none else some .invalidKeyLength
  | .message .encrypt mode => encryptCheck mode s
  | .message .decrypt mode => decryptError mode s
  | .block _ => if s.kvalid then none else some .keyNotLoaded
  | .unitStep => unitCheck i s
  | .padding => if capacity s < paddedLength (inputLength s) then some .bufferOverflow else none
  | .unpadding => unpadError s

/-- Error entry of command `i`: KEYLOAD drops the schedule before it (R155, R270). -/
def errorEntry (i : Instr) (e : ErrKind) (s : State) : State :=
  match seqKind i with
  | .keySchedule => raise e (dropSchedule s)
  | .message _ _ | .block _ | .unitStep | .padding | .unpadding => raise e s

/-- How the completion step of command `i` ends, with the error `o` of the command: in error entry, or with ERR as it
was. -/
def EndsWith (i : Instr) (s : State) (o : Option ErrKind) : Prop :=
  match o with
  | some e => exec i s = .next (errorEntry i e s)
  | none => ∃ t, exec i s = .next t ∧ t.err = s.err

theorem keyload_endsWith (s : State) : EndsWith .keyload s (commandError .keyload s) := by
  simp only [commandError, seqKind]
  split
  case isTrue h => exact ⟨_, exec_keyload_of_klen_eq s h, rfl⟩
  case isFalse h => exact exec_keyload_of_klen_ne s h

theorem MessageDone.err_eq {v : List Byte} {s t : State} (h : MessageDone v s t) : t.err = s.err := by
  obtain ⟨-, -, -, ⟨-, -, herr, -⟩, -⟩ := h
  exact herr

section
variable (i : Instr) (s : State)

theorem encrypt_endsWith (mode : Mode) (hk : seqKind i = .message .encrypt mode) :
    EndsWith i s (commandError i s) := by
  simp only [commandError, hk]
  cases hc : encryptCheck mode s with
  | some e =>
    simp only [EndsWith, errorEntry, hk]
    exact exec_encrypt_refused i mode hk s e hc
  | none =>
    obtain hwait | ⟨t, iv, ht, hdone⟩ := exec_encrypt_passed i mode hk s hc
    · exact ⟨s, hwait, rfl⟩
    · exact ⟨t, ht, hdone.err_eq⟩

theorem decrypt_endsWith (mode : Mode) (hk : seqKind i = .message .decrypt mode) :
    EndsWith i s (commandError i s) := by
  simp only [commandError, hk, decryptError]
  cases hc : decryptCheck s with
  | some e =>
    simp only [EndsWith, errorEntry, hk]
    exact exec_decrypt_refused i mode hk s e hc
  | none =>
    cases hm : decryptMessage (inputBytes s) s.rk mode with
    | none =>
      simp only [if_true, EndsWith, errorEntry, hk]
      exact exec_decrypt_notPadded i mode hk s hc hm
    | some m =>
      obtain ⟨t, ht, hdone, -⟩ := decrypt_messageDone i mode hk s m hc hm
      exact ⟨t, ht, hdone.err_eq⟩

theorem block_endsWith (dir : Direction) (hk : seqKind i = .block dir) : EndsWith i s (commandError i s) := by
  simp only [commandError, hk]
  cases hv : s.kvalid with
  | false =>
    simp only [EndsWith, errorEntry, hk]
    exact (exec_block i dir s hk).trans (keyedCommand_notLoaded _ s hv)
  | true => exact ⟨_, (exec_block i dir s hk).trans (keyedCommand_loaded _ s hv), rfl⟩

theorem unit_endsWith (hk : seqKind i = .unitStep) : EndsWith i s (commandError i s) := by
  simp only [commandError, hk]
  cases hc : unitCheck i s with
  | some e =>
    simp only [EndsWith, errorEntry, hk]
    exact exec_unit_refused i s e hk hc
  | none => exact ⟨_, exec_unit_passed i s hk hc, rfl⟩

end

theorem pad_endsWith (s : State) : EndsWith .pad s (commandError .pad s) := by
  simp only [commandError, seqKind]
  split
  case isTrue h => exact exec_pad_of_overflow s h
  case isFalse h => exact ⟨_, exec_pad_of_fits s (Nat.not_lt.1 h), rfl⟩

theorem unpad_endsWith (s : State) : EndsWith .unpad s (commandError .unpad s) := by
  simp only [commandError, seqKind, unpadError]
  split
  case isTrue h => exact exec_unpad_of_overflow s h
  case isFalse hfit =>
    rw [Nat.not_lt] at hfit
    split
    case isTrue h => exact exec_unpad_of_badLength s hfit (of_decide_eq_true h)
    case isFalse hlen =>
      obtain ⟨hne, hmul⟩ : inputLength s ≠ 0 ∧ inputLength s % 16 = 0 := by
        simpa [badCiphertextLength] using hlen
      have hexec := exec_unpad_of_checked s hfit hne hmul
      cases hm : unpad (inputBytes s) with
      | none => rw [hm] at hexec; exact hexec
      | some m => rw [hm] at hexec; exact ⟨_, hexec, rfl⟩

/-- Every command ends as `commandError` says. -/
theorem exec_endsWith (i : Instr) (s : State) : EndsWith i s (commandError i s) := by
  cases i with
  | keyload => exact keyload_endsWith s
  | encEcb | encCbc => exact encrypt_endsWith _ s _ rfl
  | decEcb | decCbc => exact decrypt_endsWith _ s _ rfl
  | blkenc | blkdec => exact block_endsWith _ s _ rfl
  | pad => exact pad_endsWith s
  | unpad => exact unpad_endsWith s
  | subbytes | invsubbytes | shiftrows | invshiftrows | mixcolumns | invmixcolumns | mixcol | invmixcol | gfmul
  | rotword | subword | addroundkey => exact unit_endsWith _ s rfl

theorem exec_of_commandError {i : Instr} {s : State} {e : ErrKind} (h : commandError i s = some e) :
    exec i s = .next (errorEntry i e s) := by
  have hends := exec_endsWith i s
  rwa [h] at hends

/-- A command that sets ERR ends in the error entry of its error. -/
theorem commandError_of_exec {i : Instr} {s t : State} (herr : s.err = false) (ht : exec i s = .next t)
    (hterr : t.err = true) : ∃ e, commandError i s = some e ∧ t = errorEntry i e s := by
  have hends := exec_endsWith i s
  cases hc : commandError i s with
  | some e => exact ⟨e, rfl, Host.Outcome.next.inj (ht.symm.trans (exec_of_commandError hc))⟩
  | none =>
    rw [hc] at hends
    obtain ⟨u, hu, huerr⟩ := hends
    obtain rfl := Host.Outcome.next.inj (hu.symm.trans ht)
    exact Bool.noConfusion ((huerr.trans herr).symm.trans hterr)

/-! ### Error entry -/

theorem errorEntry_endedInError (i : Instr) (e : ErrKind) (s : State) : EndedInError e s (errorEntry i e s) := by
  unfold errorEntry
  split
  · exact raise_endedInError e (dropSchedule s)
  all_goals exact raise_endedInError e s

theorem errorEntry_keepsSchedule (i : Instr) (e : ErrKind) (s : State) (hi : i ≠ .keyload) :
    KeepsSchedule s (errorEntry i e s) := by
  cases i with
  | keyload => exact absurd rfl hi
  | _ => exact raise_keepsSchedule e s

theorem errorEntry_err (i : Instr) (e : ErrKind) (s : State) :
    (errorEntry i e s).err = true ∧ (errorEntry i e s).errcode = e.code := by
  obtain ⟨hcode, herr, -⟩ := errorEntry_endedInError i e s
  exact ⟨herr, hcode⟩

theorem engineTurn_of_reserved (s : State) (r : Reserved) (hb : s.busy = true) (hd : decode s.opc = .error r) :
    engineTurn s = .next (raise .illegalCommand s) := by
  simp only [engineTurn, hb, hd, if_true]

/-- An engine's turn that sets ERR is the error entry of a reserved encoding or of a command. -/
theorem engineTurn_sets_err {s t : State} (herr : s.err = false) (ht : engineTurn s = .next t) (hterr : t.err = true) :
    ((∃ r, decode s.opc = .error r) ∧ t = raise .illegalCommand s) ∨
      ∃ i e, decode s.opc = .ok i ∧ t = errorEntry i e s := by
  obtain ⟨-, rfl⟩ | ⟨-, hr, hraise⟩ | ⟨-, i, hd, hi⟩ := engineTurn_cases s t ht
  · exact Bool.noConfusion (herr.symm.trans hterr)
  · exact .inl ⟨hr, hraise⟩
  · obtain ⟨e, -, hentry⟩ := commandError_of_exec herr hi hterr
    exact .inr ⟨i, e, hd, hentry⟩

/-! ### The table of R267 -/

/-- The row of the table of R267. -/
def errorRow : Instr → List ErrKind
  | .keyload => [.invalidKeyLength]
  | .encEcb | .encCbc => [.keyNotLoaded, .bufferOverflow]
  | .decEcb | .decCbc => [.invalidCiphertextLength, .invalidPadding, .keyNotLoaded, .bufferOverflow]
  | .blkenc | .blkdec | .addroundkey _ => [.keyNotLoaded]
  | .pad => [.bufferOverflow]
  | .unpad => [.invalidCiphertextLength, .invalidPadding, .bufferOverflow]
  | .subbytes | .invsubbytes | .shiftrows | .invshiftrows | .mixcolumns | .invmixcolumns | .mixcol | .invmixcol | .gfmul
  | .rotword | .subword => []

theorem encryptCheck_cases {mode : Mode} {s : State} {e : ErrKind} (h : encryptCheck mode s = some e) :
    e = .keyNotLoaded ∨ e = .bufferOverflow := by
  unfold encryptCheck at h
  split_ifs at h <;> simp_all

theorem decryptError_cases {mode : Mode} {s : State} {e : ErrKind} (h : decryptError mode s = some e) :
    e = .invalidCiphertextLength ∨ e = .invalidPadding ∨ e = .keyNotLoaded ∨ e = .bufferOverflow := by
  unfold decryptError decryptCheck at h
  split_ifs at h <;> simp_all

theorem unpadError_cases {s : State} {e : ErrKind} (h : unpadError s = some e) :
    e = .invalidCiphertextLength ∨ e = .invalidPadding ∨ e = .bufferOverflow := by
  unfold unpadError at h
  split_ifs at h <;> simp_all

/-- A command ends in no error outside its row. -/
theorem mem_errorRow_of_commandError {i : Instr} {s : State} {e : ErrKind} (hi : i.wellFormed = true)
    (h : commandError i s = some e) : e ∈ errorRow i := by
  cases i with
  | encEcb | encCbc => simpa [errorRow] using encryptCheck_cases h
  | decEcb | decCbc => simpa [errorRow] using decryptError_cases h
  | unpad => simpa [errorRow] using unpadError_cases h
  | keyload | blkenc | blkdec | pad =>
    simp only [commandError, seqKind] at h
    split_ifs at h
    simp_all [errorRow]
  | addroundkey k =>
    simp only [commandError, seqKind, unitCheck, hi] at h
    simp_all [errorRow]
  | subbytes | invsubbytes | shiftrows | invshiftrows | mixcolumns | invmixcolumns | mixcol | invmixcol | gfmul
  | rotword | subword => cases h

/-! ### A state for each entry of the table -/

/-- The reset state with a valid schedule, all zero, and the message `v` written. -/
def holding (v : List Byte) : State :=
  { State.reset with kvalid := true, ibuf := Memory.writeBytes [] 0 v, ilen := BitVec.ofNat 16 v.length }

theorem inputLength_holding (v : List Byte) (hv : v.length ≤ 64) : inputLength (holding v) = v.length := by
  show (BitVec.ofNat 16 v.length).toNat = v.length
  rw [BitVec.toNat_ofNat]
  omega

theorem inputBytes_holding (v : List Byte) (hv : v.length ≤ 64) : inputBytes (holding v) = v := by
  have hlen := inputLength_holding v hv
  refine List.ext_getElem (by rw [inputBytes_length, hlen]) fun j _ hj => ?_
  have hread : (holding v).ibuf.read? j = some (v.getD j 0) := Memory.read?_writeBytes_zero [] v j hj
  simp [inputBytes, ibufBytes, ibufByte, hread, hj]

/-- The reset state with a valid schedule and a message longer than its buffers. -/
def overlong : State := { State.reset with kvalid := true, ilen := 65 }

theorem unpad_block_zero : unpad Block.zero.toList = none := rfl

theorem decryptStream_ecb_cipher (b : Block) (rk : Vector Block 11) :
    decryptStream (cipher b rk).toList rk .ecb = b.toList := by
  have hblock (c : Block) : bytesOf [c] = c.toList := List.append_nil _
  rw [← hblock, ← hblock, decryptStream, blocksOf_bytesOf]
  exact congrArg bytesOf (decryptLoop_encryptLoop rk .ecb Block.zero [b])

/-- In ECB the encryption of `0^16` decrypts to no padded message, in CBC an IV alone does not. -/
theorem exists_block_not_padded (mode : Mode) : ∃ b : Block, decryptMessage b.toList zeroSchedule mode = none := by
  cases mode with
  | ecb => exact ⟨cipher Block.zero zeroSchedule, by rw [decryptMessage, decryptStream_ecb_cipher, unpad_block_zero]⟩
  | cbc => exact ⟨Block.zero, rfl⟩

theorem encryptCheck_occurs (mode : Mode) (e : ErrKind) (he : e = .keyNotLoaded ∨ e = .bufferOverflow) :
    ∃ s : State, s.err = false ∧ encryptCheck mode s = some e := by
  obtain rfl | rfl := he
  · exact ⟨State.reset, rfl, rfl⟩
  · refine ⟨overlong, rfl, encryptCheck_of_overflow overlong mode rfl ?_⟩
    cases mode <;> decide

theorem decryptError_of_check {mode : Mode} {s : State} {e : ErrKind} (h : decryptCheck s = some e) :
    decryptError mode s = some e := by
  simp only [decryptError, h]

theorem decryptError_occurs (mode : Mode) (e : ErrKind)
    (he : e = .invalidCiphertextLength ∨ e = .invalidPadding ∨ e = .keyNotLoaded ∨ e = .bufferOverflow) :
    ∃ s : State, s.err = false ∧ decryptError mode s = some e := by
  obtain rfl | rfl | rfl | rfl := he
  · exact ⟨holding [], rfl, decryptError_of_check rfl⟩
  · obtain ⟨b, hb⟩ := exists_block_not_padded mode
    have hlen : inputLength (holding b.toList) = 16 := inputLength_holding b.toList (by simp)
    have hcheck : decryptCheck (holding b.toList) = none :=
      decryptCheck_of_goodLength _ rfl (by have := le_capacity (holding b.toList); omega) (by omega) (by omega)
    refine ⟨holding b.toList, rfl, ?_⟩
    simp only [decryptError, hcheck]
    rw [inputBytes_holding b.toList (by simp)]
    exact if_pos hb
  · exact ⟨State.reset, rfl, decryptError_of_check rfl⟩
  · exact ⟨overlong, rfl, decryptError_of_check rfl⟩

theorem unpadError_occurs (e : ErrKind) (he : e = .invalidCiphertextLength ∨ e = .invalidPadding ∨ e = .bufferOverflow) :
    ∃ s : State, s.err = false ∧ unpadError s = some e := by
  obtain rfl | rfl | rfl := he
  · exact ⟨holding [], rfl, rfl⟩
  · exact ⟨holding Block.zero.toList, rfl, rfl⟩
  · exact ⟨overlong, rfl, rfl⟩

/-- Every entry of the row occurs. -/
theorem commandError_occurs (i : Instr) (hi : i.wellFormed = true) (e : ErrKind) (he : e ∈ errorRow i) :
    ∃ s : State, s.err = false ∧ commandError i s = some e := by
  cases i with
  | encEcb | encCbc => exact encryptCheck_occurs _ e (by simpa [errorRow] using he)
  | decEcb | decCbc => exact decryptError_occurs _ e (by simpa [errorRow] using he)
  | unpad => exact unpadError_occurs e (by simpa [errorRow] using he)
  | keyload | blkenc | blkdec =>
    obtain rfl := List.mem_singleton.1 he
    exact ⟨State.reset, rfl, rfl⟩
  | addroundkey k =>
    obtain rfl := List.mem_singleton.1 he
    refine ⟨State.reset, rfl, ?_⟩
    simp only [commandError, seqKind, unitCheck, hi]
    rfl
  | pad =>
    obtain rfl := List.mem_singleton.1 he
    exact ⟨overlong, rfl, rfl⟩
  | subbytes | invsubbytes | shiftrows | invshiftrows | mixcolumns | invmixcolumns | mixcol | invmixcol | gfmul
  | rotword | subword => cases he

theorem canRaise_iff (i : Instr) (c : Byte) (hi : i.wellFormed = true) :
    CanRaise i c ↔ ∃ e ∈ errorRow i, c = e.code := by
  constructor
  · rintro ⟨s, t, herr, ht, hterr, rfl⟩
    obtain ⟨e, he, rfl⟩ := commandError_of_exec herr ht hterr
    exact ⟨e, mem_errorRow_of_commandError hi he, (errorEntry_err i e s).2⟩
  · rintro ⟨e, he, rfl⟩
    obtain ⟨s, herr, hs⟩ := commandError_occurs i hi e he
    exact ⟨s, _, herr, exec_of_commandError hs, errorEntry_err i e s⟩

/-! ### The obligations -/

/-- Settles O7: both are error entry with IllegalCommand, the one at the engine's turn, the other in the meaning of the
term. -/
theorem reservedByteEndsIllegalCommand : Obligations.ReservedByteEndsIllegalCommand := by
  refine ⟨fun s rest r hb hturn hd => ?reservedByte, fun s k hk => ?reservedIndex⟩
  case reservedByte =>
    rw [step_of_turn s rest hturn]
    exact ⟨_, engineTurn_of_reserved { s with inbox := rest } r hb hd, raise_endedInError _ _, raise_keepsSchedule _ _⟩
  case reservedIndex =>
    have hbad : (Instr.addroundkey k).wellFormed = false := decide_eq_false (Nat.not_le.2 hk)
    have hcheck : unitCheck (.addroundkey k) s = some .illegalCommand := by simp [unitCheck, hbad]
    exact exec_endsInError_of_raise (exec_unit_refused _ s _ rfl hcheck)

/-- Settles O33: an engine's turn that sets ERR is an error entry, and only that of KEYLOAD touches the schedule. -/
theorem errorEntryIsUniform : Obligations.ErrorEntryIsUniform := by
  intro s t rest _ herr hturn ht hterr
  have hload : decode 0x01 = .ok .keyload := rfl
  rw [step_of_turn s rest hturn] at ht
  obtain ⟨⟨r, hr⟩, rfl⟩ | ⟨i, e, hd, rfl⟩ := engineTurn_sets_err (s := { s with inbox := rest }) herr ht hterr
  · refine ⟨⟨_, raise_endedInError _ _⟩, fun _ => raise_keepsSchedule _ _, fun hopc => ?_⟩
    rw [hopc] at hr
    cases hload.symm.trans hr
  · refine ⟨⟨e, errorEntry_endedInError i e _⟩, fun hopc => ?other, fun hopc => ?keyload⟩
    case other =>
      exact errorEntry_keepsSchedule i e { s with inbox := rest } fun hi => hopc (opc_of_decode_keyload _ (hi ▸ hd))
    case keyload =>
      rw [hopc] at hd
      obtain rfl := Except.ok.inj (hload.symm.trans hd)
      exact ⟨rfl, fun k _ => roundKey_zeroSchedule k⟩

/-- Settles O34: neither the error of a command nor its error entry depends on `S`, CV, OBUF or OLEN. -/
theorem errorsLeaveNoTrace : Obligations.ErrorsLeaveNoTrace := by
  intro i s t b c m n herr ht hterr u hu
  obtain ⟨e, he, rfl⟩ := commandError_of_exec herr ht hterr
  have hsame : commandError i { s with sreg := b, cv := c, obuf := m, olen := n } = some e := he
  obtain rfl := Host.Outcome.next.inj ((exec_of_commandError hsame).symm.trans hu)
  unfold errorEntry
  split <;> rfl

/-- Settles O35: the codes of the row of each command. -/
theorem errorsByCommand : Obligations.ErrorsByCommand := by
  intro i c hi
  rw [canRaise_iff i c hi]
  cases i <;> simp [errorRow, ErrKind.code]

end Sys2Proof.Machine
end

section
/-! PROOFS. Key material is not protected (`70_reset_and_hazards.md` R298): the round keys can be brought into `S`. -/

namespace Sys2Proof.Machine

open Sys2Proof

theorem Word.xor_zero_left (a : Word) : Word.zero.xor a = a := by simp [Word.zero, Word.xor]

theorem addRoundKey_zero_left (k : Block) : addRoundKey Block.zero k = k := by
  simp [addRoundKey, Block.zero, Block.xor, Word.xor_zero_left]

/-- Settles O40: ADDROUNDKEY adds RK[k] to `0^16`, and round key 0 of an expansion is the key. -/
theorem roundKeysReadableThroughS : Obligations.RoundKeysReadableThroughS := by
  refine ⟨fun s t k hk hloaded hzero ht => ?addroundkey, fun s t hlen ht => ?keyload⟩
  case addroundkey =>
    rw [exec_addroundkey_of_le k hk, keyedCommand_loaded _ s hloaded, hzero, addRoundKey_zero_left] at ht
    obtain rfl := Host.Outcome.next.inj ht
    rfl
  case keyload =>
    obtain rfl := Host.Outcome.next.inj ((exec_keyload_of_klen_eq s hlen).symm.trans ht)
    exact roundKey_expand_zero s.key

end Sys2Proof.Machine
end
